-- ==== Sys2Proof/Word.lean ====
section
/-! DEFINITION. The word types of the EDA1-DFC block (00_scope.md R10, 10_state.md R21, 30_encoding.md R80). -/

namespace Sys2Proof

/-- A byte: "a byte is an integer 0..255" (00_scope.md R10). -/
abbrev Byte := BitVec 8

/-- A register of the register space (10_state.md R21). `u32` of the spec is `toNat`, `s32` is `toInt` (R10). -/
abbrev Word := BitVec 32

/-- An address of the register space, a word address (10_state.md R21, 20_memory.md R63). -/
abbrev RegAddr := BitVec 16

/-- A command word or a response word (30_encoding.md R80, R82). -/
abbrev PortWord := BitVec 64

/-- A dipole index `i = 16·u + d` (10_state.md R42). -/
abbrev Dipole := Fin 256

/-- A first-stage unit `u` (10_state.md R42). -/
abbrev Unit16 := Fin 16

end Sys2Proof
end

