-- ==== Sys2Proof/Config.lean ====
section
/-! DEFINITION. The parameters of an instance (00_scope.md R7, R9, R14), and the one unknown instance the model runs on. -/

namespace Sys2Proof

/-- The values of an `ang_t`: any 32-bit two's complement value, in units of 2^-16 degree (00_scope.md R13). -/
def IsAngle (a : Int) : Prop := -(2 : Int) ^ 31 ≤ a ∧ a < (2 : Int) ^ 31

/-- A quarter turn as an `ang_t` (00_scope.md R13: 90° is 5898240). -/
abbrev quarterTurn : Int := 5898240

/-- A sine and cosine table that is right at the four cardinal angles, periodic, and 0 elsewhere. It only shows
that the constraints of R14 can be met: no rule and no proof about `Config.params` can use it. -/
def cardinalSincos (a : Int) : Int × Int :=
  if a % (4 * quarterTurn) = 0 then (0, 2 ^ 30)
  else if a % (4 * quarterTurn) = quarterTurn then (2 ^ 30, 0)
  else if a % (4 * quarterTurn) = 2 * quarterTurn then (0, -2 ^ 30)
  else if a % (4 * quarterTurn) = 3 * quarterTurn then (-2 ^ 30, 0)
  else (0, 0)

theorem cardinalSincos_range (a : Int) :
    |(cardinalSincos a).1| ≤ 2 ^ 30 ∧ |(cardinalSincos a).2| ≤ 2 ^ 30 := by
  unfold cardinalSincos
  split_ifs <;> decide

theorem cardinalSincos_period (a k : Int) :
    cardinalSincos (a + 4 * quarterTurn * k) = cardinalSincos a := by
  simp only [cardinalSincos, Int.add_mul_emod_self_left]

/-- A coarse bound: any two numbers of magnitude at most 2^30 differ by at most 2^31. -/
theorem abs_sub_scaled_le (v : Int) (hv : |v| ≤ 2 ^ 30) (x : ℝ) (hx : |x| ≤ 1) :
    |(v : ℝ) - 2 ^ 30 * x| ≤ ((2147483648 : Nat) : ℝ) := by
  have h1 : |(v : ℝ)| ≤ 2 ^ 30 := by exact_mod_cast hv
  rw [abs_le] at h1 hx ⊢
  push_cast
  constructor <;> nlinarith [h1.1, h1.2, hx.1, hx.2]

/-- The parameters of one instance: 00_scope.md R7 (the values), R9 (the constraints), R14 (SINCOS with T1 to T4).
The default values only show that the constraints can be met together; they are the reference set P0 of
93_implementation_defined.md, which is not normative. -/
structure Params where
  /-- START, the reserved start byte of a frame. -/
  start : Byte := 0x7E
  /-- ESC, the reserved escape byte. -/
  esc : Byte := 0x7D
  /-- MASK, the value XORed onto an escaped byte. -/
  mask : Byte := 0x20
  /-- FS, the first-stage step size in picoseconds. -/
  fs : Nat := 435
  /-- SS, the second-stage step size in picoseconds. -/
  ss : Nat := 92
  /-- H, the headroom in second-stage steps. -/
  h : Nat := 8
  /-- C_INV, picoseconds per metre, unsigned Q12.20. -/
  cInv : Nat := 3497673047
  /-- RXBUF_CAP, the capacity of the receive buffer in bytes. -/
  rxbufCap : Nat := 1024
  /-- SINCOS, from an `ang_t` to a pair (sine, cosine) of `trig_t` (R14). -/
  sincos : Int → Int × Int := cardinalSincos
  /-- TRIG_ERR, the bound of property T4, which no rule uses (R14). -/
  trigErr : Nat := 2147483648
  start_ne_esc : start ≠ esc := by decide
  mask_ne_zero : mask ≠ 0 := by decide
  mask_ne_start_xor_esc : mask ≠ start ^^^ esc := by decide
  fs_pos : 1 ≤ fs := by decide
  fs_le : fs ≤ 65535 := by decide
  ss_pos : 1 ≤ ss := by decide
  ss_le : ss ≤ 65535 := by decide
  h_le : h ≤ 127 := by decide
  cInv_pos : 1 ≤ cInv := by decide
  cInv_le : cInv ≤ 4294967295 := by decide
  rxbufCap_ge : 523 ≤ rxbufCap := by decide
  /-- DEDUCED (log 2): CFG_RXCAP and RXBUF_LEN have 16 bits (10_state.md R25, R29). -/
  rxbufCap_le : rxbufCap ≤ 65535 := by decide
  /-- T1, range. -/
  sincos_range : ∀ a, IsAngle a → |(sincos a).1| ≤ 2 ^ 30 ∧ |(sincos a).2| ≤ 2 ^ 30 :=
    by exact fun a _ => cardinalSincos_range a
  /-- T2, the cardinal points are exact. -/
  sincos_0 : sincos 0 = (0, 2 ^ 30) := by decide
  sincos_90 : sincos quarterTurn = (2 ^ 30, 0) := by decide
  sincos_180 : sincos (2 * quarterTurn) = (0, -2 ^ 30) := by decide
  sincos_270 : sincos (3 * quarterTurn) = (-2 ^ 30, 0) := by decide
  /-- T3, the period. -/
  sincos_period : ∀ a k, IsAngle a → IsAngle (a + 4 * quarterTurn * k) →
      sincos (a + 4 * quarterTurn * k) = sincos a :=
    by exact fun a k _ _ => cardinalSincos_period a k
  /-- T4, accuracy: the argument of `Real.sin` and `Real.cos` is the angle in radians. -/
  sincos_accurate : ∀ a, IsAngle a →
      |((sincos a).1 : ℝ) - 2 ^ 30 * Real.sin ((a : ℝ) / 65536 * Real.pi / 180)| ≤ (trigErr : ℝ) ∧
      |((sincos a).2 : ℝ) - 2 ^ 30 * Real.cos ((a : ℝ) / 65536 * Real.pi / 180)| ≤ (trigErr : ℝ) :=
    by exact fun a _ => ⟨abs_sub_scaled_le _ (cardinalSincos_range a).1 _ (Real.abs_sin_le_one _),
        abs_sub_scaled_le _ (cardinalSincos_range a).2 _ (Real.abs_cos_le_one _)⟩
deriving Inhabited

/-- The parameters of the instance this machine is. It has no body: nothing can evaluate it, and a statement about
it holds for every parameter set that R9 and R14 allow (log 1). -/
opaque Config.params : Params

end Sys2Proof
end

