-- ==== Sys2Proof/Machine/State.lean ====
section
/-! DEFINITION. The state of one instance of the block (10_state.md R20) and its reset values (R45). -/

namespace Sys2Proof.Machine

/-- The fields of STATUS that hold a value (10_state.md R23); `STATUS[31:11]` read 0. -/
structure Status where
  /-- LASTCODE, `STATUS[7:0]`. -/
  lastCode : BitVec 8
  /-- RES_VALID, `STATUS[8]`. -/
  resValid : Bool
  /-- RX_VALID, `STATUS[9]`. -/
  rxValid : Bool
  /-- TX_VALID, `STATUS[10]`. -/
  txValid : Bool
deriving DecidableEq, Repr

/-- The checksum unit's accumulators (10_state.md R26). -/
structure Csu where
  /-- CS_SUM8. -/
  sum8 : Word
  /-- CS_SUM16. -/
  sum16 : Word
  /-- CS_CNT, the number of bytes absorbed. -/
  cnt : BitVec 16
deriving DecidableEq, Repr

/-- The frame codec's transmit side (10_state.md R27, R28). -/
structure Tx where
  /-- TX_CTRL. -/
  ctrl : Byte
  /-- TX_CMD. -/
  cmd : Byte
  /-- TX_LEN. -/
  len : Byte
  /-- TX_PAY[0..254]. -/
  pay : Vector Byte 255
  /-- TXRAW[0..522]. -/
  raw : Vector Byte 523
  /-- TXRAW_LEN. -/
  rawLen : BitVec 10
deriving DecidableEq, Repr

/-- The frame codec's receive side (10_state.md R29 to R32). -/
structure Rx where
  /-- RXBUF, oldest byte first; its length reads as RXBUF_LEN. -/
  buf : List Byte
  /-- RX_IDLE. -/
  idle : BitVec 2
  /-- RX_CTRL. -/
  ctrl : Byte
  /-- RX_CMD. -/
  cmd : Byte
  /-- RX_LEN. -/
  len : Byte
  /-- RX_FLAGS: LONG, PAY_OK, HDR_OK in bits 2, 1, 0. -/
  flags : BitVec 3
  /-- RX_CS8. -/
  cs8 : Byte
  /-- RX_CS16. -/
  cs16 : BitVec 16
  /-- RX_PAY[0..254]. -/
  pay : Vector Byte 255
deriving DecidableEq, Repr

/-- The delay solver's input registers other than FINE (10_state.md R33 to R37). -/
structure SolverIn where
  /-- AZ. -/
  az : Word
  /-- EL. -/
  el : Word
  /-- OFF_X. -/
  offX : Word
  /-- OFF_Y. -/
  offY : Word
  /-- OFF_Z. -/
  offZ : Word
  /-- ERRLIM. -/
  errlim : Word
  /-- SCTL: OPT, CLIP, STRICT in bits 2, 1, 0. -/
  sctl : BitVec 3
  /-- PVALID[0..7]. -/
  pvalid : Vector Word 8
  /-- CORR[0..15]. -/
  corr : Vector Word 16
  /-- POS_X[0..255]. -/
  posX : Vector Word 256
  /-- POS_Y[0..255]. -/
  posY : Vector Word 256
  /-- POS_Z[0..255]. -/
  posZ : Vector Word 256
deriving DecidableEq, Repr

/-- The delay solver's output registers other than FINE (10_state.md R39 to R41). -/
structure SolverOut where
  /-- COARSE[0..15]. -/
  coarse : Vector Word 16
  /-- ERR[0..255]. -/
  err : Vector Word 256
  /-- DISABLED. -/
  disabled : BitVec 9
  /-- MAXERR. -/
  maxerr : Word
  /-- SUMSQ0, bits 31:0 of the sum of squares. -/
  sumsq0 : Word
  /-- SUMSQ1, bits 63:32. -/
  sumsq1 : Word
  /-- SUMSQ2, bits 95:64. -/
  sumsq2 : Word
deriving DecidableEq, Repr

/-- What can arrive at an instance (00_scope.md R6, 70_reset_and_hazards.md R250, R262). Not state of the block:
the input the model's step reads (log 3). -/
inductive Arrival where
  /-- A command word on the command port. -/
  | command (cw : PortWord)
  /-- The hardware reset input is asserted between two commands. -/
  | resetInput
  /-- A command word taken from the port and abandoned because the reset input is asserted during it (R262). -/
  | commandCutByReset (cw : PortWord)
deriving DecidableEq, Repr

/-- The state of one instance, complete (10_state.md R20), and the model's two lists of port traffic. -/
structure State where
  /-- STATUS. -/
  status : Status
  /-- FAULT: CSOVF, RXOVF, RANGE, ADDR, ILLEGAL in bits 4 to 0. -/
  fault : BitVec 5
  /-- The checksum unit. -/
  csu : Csu
  /-- The frame codec, transmit side. -/
  tx : Tx
  /-- The frame codec, receive side. -/
  rx : Rx
  /-- The delay solver's inputs. -/
  din : SolverIn
  /-- FINE[0..255], input and output (10_state.md R38). -/
  fine : Vector Word 256
  /-- The delay solver's outputs. -/
  dout : SolverOut
  /-- The model's own: what has arrived and is not taken yet, in arrival order (log 3). -/
  pending : List Arrival
  /-- The model's own: the response words produced so far, oldest first (log 4). -/
  responses : List PortWord
deriving DecidableEq, Repr

/-- Why the machine stops. There is no such reason: "a fault does not stop, stall or reset the block"
(60_exceptions.md R223, R233), so every fault of the spec is a next state and this type is empty. Nothing raises it,
and that is safe: no run is cut short (log 7). -/
inductive Fault : Type
deriving DecidableEq, Repr

/-- Why an instruction has no meaning. -/
inductive Refusal where
  /-- Raised by an arm of `exec` for an instruction that the model does not give a meaning yet. Safe. No arm raises it. -/
  | notModelled (mnemonic : String)
deriving DecidableEq, Repr

/-- The machine right after reset (10_state.md R45), with nothing arrived and nothing answered. -/
def State.reset : State where
  status := ⟨0, false, false, false⟩
  fault := 0
  csu := ⟨0, 0, 0⟩
  tx := ⟨0, 0, 0, Vector.replicate 255 0, Vector.replicate 523 0, 0⟩
  rx := ⟨[], 0, 0, 0, 0, 0, 0, 0, Vector.replicate 255 0⟩
  din := ⟨0, 0, 0, 0, 0, 0, 0, Vector.replicate 8 0, Vector.replicate 16 0,
    Vector.replicate 256 0, Vector.replicate 256 0, Vector.replicate 256 0⟩
  fine := Vector.replicate 256 0
  dout := ⟨Vector.replicate 16 0, Vector.replicate 256 0, 0, 0, 0, 0, 0⟩
  pending := []
  responses := []

end Sys2Proof.Machine
end

