-- ==== Sys2Proof/Machine/Flags.lean ====
section
/-! DEFINITION. Outcome codes, the FAULT bits and the fields of STATUS, FAULT, RX_FLAGS and SCTL
(60_exceptions.md R220 to R222, 10_state.md R23, R24, R32, R34). -/

namespace Sys2Proof.Machine

/-- The outcome codes, complete (60_exceptions.md R221). -/
inductive Code where
  | ok
  | incomplete
  | timeout
  | corrupt
  | eZenith
  | eEmpty
  | eErrlim
  | fIllegal
  | fAddr
  | fRange
  | fRxovf
  | fCsovf
deriving DecidableEq, Repr

/-- The 8-bit value of a code (R221). -/
def Code.bits : Code → BitVec 8
  | .ok => 0x00
  | .incomplete => 0x01
  | .timeout => 0x02
  | .corrupt => 0x03
  | .eZenith => 0x10
  | .eEmpty => 0x11
  | .eErrlim => 0x12
  | .fIllegal => 0x80
  | .fAddr => 0x81
  | .fRange => 0x82
  | .fRxovf => 0x83
  | .fCsovf => 0x84

/-- The twelve codes in the order of R221's table. -/
def allCodes : List Code :=
  [.ok, .incomplete, .timeout, .corrupt, .eZenith, .eEmpty, .eErrlim,
   .fIllegal, .fAddr, .fRange, .fRxovf, .fCsovf]

/-- The FAULT register with only the bit of a code set; no bit for a code that is not a fault (R221, 10_state.md R24). -/
def Code.faultBit : Code → BitVec 5
  | .fIllegal => 0b00001
  | .fAddr => 0b00010
  | .fRange => 0b00100
  | .fRxovf => 0b01000
  | .fCsovf => 0b10000
  | .ok => 0
  | .incomplete => 0
  | .timeout => 0
  | .corrupt => 0
  | .eZenith => 0
  | .eEmpty => 0
  | .eErrlim => 0

/-- STATUS as it is read: TX_VALID, RX_VALID, RES_VALID and LASTCODE in bits 10, 9, 8 and 7:0 (10_state.md R23). -/
def statusWord (st : Status) : Word :=
  (BitVec.ofBool st.txValid ++ BitVec.ofBool st.rxValid ++ BitVec.ofBool st.resValid ++ st.lastCode).setWidth 32

/-- RX_FLAGS from its three flags: `{LONG, PAY_OK, HDR_OK}`, bits 2, 1, 0 (42_frame_codec.md R151, 10_state.md R32). -/
def rxFlagsOf (long payOk hdrOk : Bool) : BitVec 3 :=
  BitVec.ofBool long ++ BitVec.ofBool payOk ++ BitVec.ofBool hdrOk

/-- `STRICT = SCTL[0]` (10_state.md R34). -/
def strictBit (d : SolverIn) : Bool := d.sctl.getLsbD 0

/-- `CLIP = SCTL[1]` (10_state.md R34). -/
def clipBit (d : SolverIn) : Bool := d.sctl.getLsbD 1

/-- `OPT = SCTL[2]` (10_state.md R34). -/
def optBit (d : SolverIn) : Bool := d.sctl.getLsbD 2

/-- Write LASTCODE (10_state.md R23). -/
def State.setLastCode (s : State) (c : Code) : State :=
  { s with status := { s.status with lastCode := c.bits } }

/-- Write RES_VALID (10_state.md R23). -/
def State.setResValid (s : State) (b : Bool) : State :=
  { s with status := { s.status with resValid := b } }

/-- Write RX_VALID (10_state.md R23). -/
def State.setRxValid (s : State) (b : Bool) : State :=
  { s with status := { s.status with rxValid := b } }

/-- Write TX_VALID (10_state.md R23). -/
def State.setTxValid (s : State) (b : Bool) : State :=
  { s with status := { s.status with txValid := b } }

/-- Set the sticky bit of a fault; it "stays set if it already was" (60_exceptions.md R223). -/
def State.raiseFaultBit (s : State) (c : Code) : State :=
  { s with fault := s.fault ||| c.faultBit }

end Sys2Proof.Machine
end

