-- ==== Sys2Proof/Machine/Ops.lean ====
section
/-! DEFINITION. The shared operations: the pseudocode's primitives (00_scope.md R10 to R12), answering a command
(40_host_access.md R110), and taking a fault (60_exceptions.md R223). There is no return from a fault: "no handler to
enter and nothing to return from" (R223, R226). -/

namespace Sys2Proof.Machine

/-! ### Integers and tables -/

/-- `to32(v)`: the 32-bit pattern of `v`, two's complement when negative (R10). -/
def to32 (v : Int) : Word := BitVec.ofInt 32 v

/-- `clamp(v, lo, hi) = max(lo, min(hi, v))` (R11). -/
def clamp (v lo hi : Int) : Int := max lo (min hi v)

/-- `rnd(n, d) = sign(n) · floor((2·abs(n) + d) / (2·d))`: nearest, a tie away from zero (R11). -/
def rnd (n d : Int) : Int := n.sign * ((2 * (n.natAbs : Int) + d) / (2 * d))

/-- A table of `n` entries, entry `k` being `f k`. -/
def tabulate {α : Type} (n : Nat) (f : Nat → α) : Vector α n := ⟨⟨(List.range n).map f⟩, by simp⟩

/-! ### Answering -/

/-- The response word `{value, 0[23:0], code}` (30_encoding.md R82). -/
def responseWord (c : Code) (value : Word) : PortWord := value ++ (0 : BitVec 24) ++ c.bits

/-- One response word leaves the command port (R82). -/
def State.pushResponse (s : State) (c : Code) (value : Word) : State :=
  { s with responses := s.responses ++ [responseWord c value] }

/-- `respond(code, value)` of every command but RD and NOP: LASTCODE is written (40_host_access.md R110). -/
def respond (c : Code) (value : Word) (s : State) : State :=
  (s.setLastCode c).pushResponse c value

/-- `respond(code, value)` of RD and NOP: LASTCODE is left unchanged (R110, 10_state.md R23). -/
def respondQuietly (c : Code) (value : Word) (s : State) : State :=
  s.pushResponse c value

/-- `fault(code)`: the effect of a fault, complete (60_exceptions.md R223): the FAULT bit, LASTCODE, the response
`(code, 0)`, and no other change. -/
def faultOut (c : Code) (s : State) : State :=
  ((s.raiseFaultBit c).setLastCode c).pushResponse c 0

end Sys2Proof.Machine
end

