-- ==== Sys2Proof/Machine/Checksum.lean ====
section
/-! DEFINITION. The two checksum functions (41_checksum.md R120 to R123) and the commands CSCLR, CSPUSH, CSRD8,
CSRD16 (R125 to R128). The sums are additive, not cyclic redundancy checks (90_conflicts.md C1). -/

namespace Sys2Proof.Machine

/-! ### The functions -/

/-- The integer sum of the bytes, 0 for none (R120). -/
def byteSum : List Byte → Nat
  | [] => 0
  | b :: bs => b.toNat + byteSum bs

/-- The last step of the 8-bit checksum: a sum above 255 is folded once and truncated to 8 bits, a sum of 255 or less
is complemented (R120, R121). The asymmetry "must be reproduced bit-for-bit". -/
def finish8 (s : Nat) : Nat :=
  if s > 255 then (s % 256 + s / 256) % 256 else 255 - s

/-- `csum8(bs)` (R120, R121). -/
def csum8 (bs : List Byte) : Byte := BitVec.ofNat 8 (finish8 (byteSum bs))

/-- `wsum16(bs)`: little-endian 16-bit words, "odd trailing byte treated as a lone low byte" (R122). -/
def wsum16 : List Byte → Nat
  | [] => 0
  | [b] => b.toNat
  | b :: b' :: bs => b.toNat + 256 * b'.toNat + wsum16 bs

/-- One end-around carry (R123). -/
def foldOnce (s : Nat) : Nat := s % 65536 + s / 65536

/-- The loop of R123 with a bound on its turns; each turn makes the sum smaller, so `s` turns are enough. -/
def foldLoop : Nat → Nat → Nat
  | 0, s => s
  | turns + 1, s => if s > 0xFFFF then foldLoop turns (foldOnce s) else s

/-- The sum with every carry beyond 16 bits folded back (R123). -/
def fold16 (s : Nat) : Nat := foldLoop s s

/-- The last step of the 16-bit checksum: fold, then the ones'-complement (R123). -/
def finish16 (s : Nat) : Nat := 65535 - fold16 s

/-- `csum16(bs)` (R123). -/
def csum16 (bs : List Byte) : BitVec 16 := BitVec.ofNat 16 (finish16 (wsum16 bs))

/-! ### The commands -/

/-- Write the three accumulators (10_state.md R26). -/
def State.setCsu (s : State) (c : Csu) : State := { s with csu := c }

/-- CSCLR (R125). -/
def csclrOp (s : State) : State := respond .ok 0 (s.setCsu ⟨0, 0, 0⟩)

/-- The accumulators after one more byte: into both sums, in the low or the high half of a word by the parity of the
count (R126). -/
def absorb (b : Byte) (c : Csu) : Csu :=
  { sum8 := c.sum8 + b.setWidth 32
    sum16 := if c.cnt.toNat % 2 = 0 then c.sum16 + b.setWidth 32 else c.sum16 + 256 * b.setWidth 32
    cnt := c.cnt + 1 }

/-- CSPUSH: F_CSOVF when 65535 bytes have been absorbed, else absorb and answer the new count (R126). -/
def cspushOp (b : Byte) (s : State) : State :=
  if s.csu.cnt.toNat = 65535 then faultOut .fCsovf s
  else respond .ok ((absorb b s.csu).cnt.setWidth 32) (s.setCsu (absorb b s.csu))

/-- CSRD8 (R127). -/
def csrd8Op (s : State) : State := respond .ok (BitVec.ofNat 32 (finish8 s.csu.sum8.toNat)) s

/-- CSRD16 (R128). -/
def csrd16Op (s : State) : State := respond .ok (BitVec.ofNat 32 (finish16 s.csu.sum16.toNat)) s

/-- CSCLR (R125). -/
def execCsclr (s : State) : Host.Outcome State Fault Refusal := .next (csclrOp s)

/-- CSPUSH (R126). -/
def execCspush (b : Byte) (s : State) : Host.Outcome State Fault Refusal := .next (cspushOp b s)

/-- CSRD8 (R127). -/
def execCsrd8 (s : State) : Host.Outcome State Fault Refusal := .next (csrd8Op s)

/-- CSRD16 (R128). -/
def execCsrd16 (s : State) : Host.Outcome State Fault Refusal := .next (csrd16Op s)

end Sys2Proof.Machine
end

