-- ==== Sys2Proof/Machine/DelaySolver.lean ====
section
/-! DEFINITION. The delay solver: SOLVE and REFINE (43_delay_solver.md). All arithmetic is on integers without
wrap-around (00_scope.md R11); a result is narrowed only when it is stored. -/

namespace Sys2Proof.Machine

/-! ### Literals of the document (00_scope.md R8) -/

/-- FMIN, the least first-stage delay. -/
def fineMin : Int := -16

/-- FMAX, the greatest first-stage delay. -/
def fineMax : Int := 15

/-- SENT, the disable sentinel. -/
def sentinel : Int := 16

/-- W, the half width of the search window. -/
def window : Int := 6

/-- LO, the least second-stage delay. -/
def coarseMin (p : Params) : Int := -128 + p.h

/-- HI, the greatest second-stage delay. -/
def coarseMax (p : Params) : Int := 127 - p.h

/-! ### The position map (10_state.md R35, R42, 43_delay_solver.md R170) -/

/-- The unit of a dipole, `u = i >> 4` (R42). -/
def unitOf (i : Dipole) : Unit16 := ⟨i.val / 16, by omega⟩

/-- Dipole `16·u + d` (R42). -/
def dipoleOf (u d : Unit16) : Dipole := ⟨16 * u.val + d.val, by omega⟩

/-- `valid(i)`: bit `i and 31` of `PVALID[i >> 5]` (R170). -/
def isValid (d : SolverIn) (i : Dipole) : Bool := (d.pvalid[i.val / 32]'(by omega)).getLsbD (i.val % 32)

/-- `V`, the valid dipoles, in index order (R170). -/
def validDipoles (d : SolverIn) : List Dipole := (List.finRange 256).filter (isValid d)

/-- `V_u`, the valid dipoles of a unit, in index order (R170). -/
def unitDipoles (d : SolverIn) (u : Unit16) : List Dipole :=
  ((List.finRange 16).map (dipoleOf u)).filter (isValid d)

/-- The elevation is outside 0° to 90°, both ends allowed (R171). -/
def elevationBad (d : SolverIn) : Bool := d.el.toInt < 0 || d.el.toInt > quarterTurn

/-! ### Step 1: the ideal delay (R172 to R174) -/

/-- `num`, the projection before its one rounding, unit 2^-96 ps (R172, R173): `(sa, ca) = SINCOS(az)`,
`(sz, cz) = SINCOS(90·2^16 − el)`, and the offset is subtracted from the position (R174). -/
def projection (p : Params) (d : SolverIn) (i : Dipole) : Int :=
  let a := p.sincos d.az.toInt
  let z := p.sincos (quarterTurn - d.el.toInt)
  let dx := d.posX[i].toInt - d.offX.toInt
  let dy := d.posY[i].toInt - d.offY.toInt
  let dz := d.posZ[i].toInt - d.offZ.toInt
  ((dx * a.1 + dy * a.2) * z.1 + dz * z.2 * 2 ^ 30) * p.cInv

/-- `ideal_i = rnd(num, 2^96) + corr_u` (R173). -/
def idealDelay (p : Params) (d : SolverIn) (i : Dipole) : Int :=
  rnd (projection p d i) (2 ^ 96) + d.corr[unitOf i].toInt

/-! ### Steps 2 and 3: the coarse delay (R177 to R180) -/

/-- The sum of a function over a list of dipoles. -/
def sumOver (f : Dipole → Int) : List Dipole → Int
  | [] => 0
  | i :: is => f i + sumOver f is

/-- `n0_u`, the mean ideal delay quantised to the second-stage step and clamped (R177). -/
def naiveCoarse (p : Params) (d : SolverIn) (u : Unit16) : Int :=
  clamp (rnd (sumOver (idealDelay p d) (unitDipoles d u)) ((unitDipoles d u).length * p.ss))
    (coarseMin p) (coarseMax p)

/-- The integers from `lo` to `hi`, in increasing order. -/
def intRange (lo hi : Int) : List Int := (List.range (hi - lo + 1).toNat).map (fun k : Nat => lo + (k : Int))

/-- The candidates: the naive one alone, or the window around it within the legal range (R178, R190). -/
def candidates (p : Params) (opt : Bool) (n0 : Int) : List Int :=
  if opt then intRange (max (n0 - window) (coarseMin p)) (min (n0 + window) (coarseMax p)) else [n0]

/-- A cost: the number of out-of-range dipoles, then the sum of squares of the others (R179). -/
abbrev Cost := Nat × Int

/-- Costs are ordered by the first part, then by the second (R179). -/
def costLt (x y : Cost) : Bool := x.1 < y.1 || (x.1 == y.1 && x.2 < y.2)

/-- The first candidate, from low to high, whose cost no later one is below (R180). -/
def pickFrom (cost : Int → Cost) (best : Int) : List Int → Int
  | [] => best
  | c :: cs => if costLt (cost c) (cost best) then pickFrom cost c cs else pickFrom cost best cs

/-- The selection of R180 over the candidates of R178; the naive candidate is always one of them. -/
def pickLeast (cost : Int → Cost) (n0 : Int) : List Int → Int
  | [] => n0
  | c :: cs => pickFrom cost c cs

/-- The chosen coarse delay of a unit for a cost (R178, R180, R190). -/
def chooseCoarse (p : Params) (d : SolverIn) (cost : Int → Cost) (u : Unit16) : Int :=
  pickLeast cost (naiveCoarse p d u) (candidates p (optBit d) (naiveCoarse p d u))

/-- The fine delay before clamping, `rnd(ideal − c·SS, FS)` (R179, R181). -/
def trialFine (p : Params) (ideal c : Int) : Int := rnd (ideal - c * p.ss) p.fs

/-- `ideal − (f·FS + c·SS)` (R179, R182, R187, R188). -/
def residualOf (p : Params) (ideal f c : Int) : Int := ideal - (f * p.fs + c * p.ss)

/-- One dipole's part of a cost in SOLVE (R179). -/
def addSolveCost (p : Params) (ideal c : Int) (x : Cost) : Cost :=
  if trialFine p ideal c < fineMin ∨ fineMax < trialFine p ideal c then (x.1 + 1, x.2)
  else (x.1, x.2 + residualOf p ideal (trialFine p ideal c) c ^ 2)

/-- The cost of a candidate for a unit in SOLVE (R179). -/
def solveCost (p : Params) (d : SolverIn) (u : Unit16) (c : Int) : Cost :=
  (unitDipoles d u).foldl (fun x i => addSolveCost p (idealDelay p d i) c x) (0, 0)

/-- `c_u` in SOLVE (R180). -/
def solveCoarse (p : Params) (d : SolverIn) (u : Unit16) : Int := chooseCoarse p d (solveCost p d u) u

/-- One dipole's part of a cost in REFINE: nothing where the existing fine delay is the sentinel (R187). -/
def addRefineCost (p : Params) (ideal g c : Int) (x : Cost) : Cost :=
  if g = sentinel then x else (x.1, x.2 + residualOf p ideal g c ^ 2)

/-- `g_i`, the existing fine delay (R187). -/
def existingFine (fine : Vector Word 256) (i : Dipole) : Int := fine[i].toInt

/-- The cost of a candidate for a unit in REFINE (R187). -/
def refineCost (p : Params) (d : SolverIn) (fine : Vector Word 256) (u : Unit16) (c : Int) : Cost :=
  (unitDipoles d u).foldl (fun x i => addRefineCost p (idealDelay p d i) (existingFine fine i) c x) (0, 0)

/-- `c_u` in REFINE (R187, R180). -/
def refineCoarse (p : Params) (d : SolverIn) (fine : Vector Word 256) (u : Unit16) : Int :=
  chooseCoarse p d (refineCost p d fine u) u

/-! ### Steps 4 and 5: fine delays, residuals, the error limit (R181 to R183, R188) -/

/-- `f_i` in SOLVE, before any marking (R181). -/
def solveFine (p : Params) (d : SolverIn) (i : Dipole) : Int :=
  let f := trialFine p (idealDelay p d i) (solveCoarse p d (unitOf i))
  if clipBit d then clamp f fineMin fineMax else f

/-- `r_i` in SOLVE (R182). -/
def solveResidual (p : Params) (d : SolverIn) (i : Dipole) : Int :=
  residualOf p (idealDelay p d i) (solveFine p d i) (solveCoarse p d (unitOf i))

/-- `r_i` in REFINE (R188). -/
def refineResidual (p : Params) (d : SolverIn) (fine : Vector Word 256) (i : Dipole) : Int :=
  if existingFine fine i = sentinel then 0
  else residualOf p (idealDelay p d i) (existingFine fine i) (refineCoarse p d fine (unitOf i))

/-- `abs(r_i) > lim` (R183). -/
def isOver (d : SolverIn) (resid : Dipole → Int) (i : Dipole) : Bool := d.errlim.toNat < (resid i).natAbs

/-- `over`, the valid dipoles beyond the limit (R183). -/
def overLimit (d : SolverIn) (resid : Dipole → Int) : List Dipole := (validDipoles d).filter (isOver d resid)

/-- A dipole that SOLVE marks with the sentinel: beyond the limit, not strict, clipped (R183). -/
def isMarked (p : Params) (d : SolverIn) (i : Dipole) : Bool :=
  !strictBit d && clipBit d && isOver d (solveResidual p d) i

/-- The fine delay SOLVE commits for a valid dipole (R181, R183). -/
def committedFine (p : Params) (d : SolverIn) (i : Dipole) : Int :=
  if isMarked p d i then sentinel else solveFine p d i

/-! ### Step 6 and the commit (R184, R185) -/

/-- `MAXERR = max of abs(r_i)` (R184). -/
def maxAbs (resid : Dipole → Int) : List Dipole → Nat
  | [] => 0
  | i :: is => max (resid i).natAbs (maxAbs resid is)

/-- `SUMSQ = sum of r_i^2` (R184). -/
def sumSquares (resid : Dipole → Int) : List Dipole → Nat
  | [] => 0
  | i :: is => (resid i).natAbs ^ 2 + sumSquares resid is

/-- A table of 256 words with entry `i` from a function of the dipole. -/
def dipoleTable (f : Dipole → Word) : Vector Word 256 := tabulate 256 fun k => f (Fin.ofNat 256 k)

/-- The output registers of a committed solve (R184, R185): COARSE of the units that have a valid dipole, ERR of every
dipole (0 where it is not valid, R175), and the diagnostics. -/
def committedOut (d : SolverIn) (old : SolverOut) (coarse : Unit16 → Int) (resid : Dipole → Int) (disabled : Nat) :
    SolverOut where
  coarse := tabulate 16 fun k =>
    if (unitDipoles d (Fin.ofNat 16 k)).isEmpty then old.coarse[Fin.ofNat 16 k] else to32 (coarse (Fin.ofNat 16 k))
  err := dipoleTable fun i => if isValid d i then to32 (resid i) else 0
  disabled := BitVec.ofNat 9 disabled
  maxerr := BitVec.ofNat 32 (maxAbs resid (validDipoles d))
  sumsq0 := BitVec.ofNat 32 (sumSquares resid (validDipoles d))
  sumsq1 := BitVec.ofNat 32 (sumSquares resid (validDipoles d) / 2 ^ 32)
  sumsq2 := BitVec.ofNat 32 (sumSquares resid (validDipoles d) / 2 ^ 64)

/-- Write FINE and the output registers, and set RES_VALID (R185). -/
def State.commit (s : State) (fine : Vector Word 256) (out : SolverOut) : State :=
  { s with fine := fine, dout := out, status := { s.status with resValid := true } }

/-- A failure outcome: no output register is written and RES_VALID is cleared (R185). -/
def failSolve (c : Code) (s : State) : State := respond c 0 (s.setResValid false)

/-! ### The two commands -/

/-- FINE after a committed SOLVE: the entries of the valid dipoles are new (R175, R185). -/
def solvedFine (p : Params) (d : SolverIn) (old : Vector Word 256) : Vector Word 256 :=
  dipoleTable fun i => if isValid d i then to32 (committedFine p d i) else old[i]

/-- `disabled` in SOLVE: the dipoles it marked (R183). -/
def solveDisabled (p : Params) (d : SolverIn) : Nat := ((validDipoles d).filter (isMarked p d)).length

/-- `disabled` in REFINE: the valid dipoles whose existing fine delay is the sentinel (R188). -/
def refineDisabled (d : SolverIn) (fine : Vector Word 256) : Nat :=
  ((validDipoles d).filter fun i => existingFine fine i == sentinel).length

/-- SOLVE (R186). -/
def solveOp (p : Params) (s : State) : State :=
  if elevationBad s.din then failSolve .eZenith s
  else if (validDipoles s.din).isEmpty then failSolve .eEmpty s
  else if strictBit s.din && !(overLimit s.din (solveResidual p s.din)).isEmpty then failSolve .eErrlim s
  else respond .ok (BitVec.ofNat 32 (solveDisabled p s.din))
    (s.commit (solvedFine p s.din s.fine)
      (committedOut s.din s.dout (solveCoarse p s.din) (solveResidual p s.din) (solveDisabled p s.din)))

/-- REFINE (R189): FINE is read and never written. -/
def refineOp (p : Params) (s : State) : State :=
  if elevationBad s.din then failSolve .eZenith s
  else if (validDipoles s.din).isEmpty then failSolve .eEmpty s
  else if strictBit s.din && !(overLimit s.din (refineResidual p s.din s.fine)).isEmpty then failSolve .eErrlim s
  else respond .ok (BitVec.ofNat 32 (refineDisabled s.din s.fine))
    (s.commit s.fine
      (committedOut s.din s.dout (refineCoarse p s.din s.fine) (refineResidual p s.din s.fine)
        (refineDisabled s.din s.fine)))

/-- SOLVE (R186). -/
def execSolve (s : State) : Host.Outcome State Fault Refusal := .next (solveOp Config.params s)

/-- REFINE (R189). -/
def execRefine (s : State) : Host.Outcome State Fault Refusal := .next (refineOp Config.params s)

/-! ### The bias contract (R193) -/

/-- The code the transport layer sends for a fine delay, `f + 16`: -16..15 become 0..31 and the sentinel 32, "channel
off". The block does not add it (R193). -/
def transportFine (f : Int) : Int := f + 16

/-- The code the transport layer sends for a coarse delay, `c + 128` (R193). -/
def transportCoarse (c : Int) : Int := c + 128

end Sys2Proof.Machine
end

