-- ==== Sys2Proof/Machine/FrameCodec.lean ====
section
/-! DEFINITION. The wire frame (30_encoding.md R86 to R91) and the frame codec's commands FENC, RXDATA, RXIDLE, FDEC,
RXFLUSH (42_frame_codec.md). The control and the command byte are opaque (30_encoding.md R92). -/

namespace Sys2Proof.Machine

/-! ### Encoding (42_frame_codec.md R140 to R144) -/

/-- The low byte of a 16-bit checksum, `c and 0xFF`: first on the wire (20_memory.md R61). -/
def lowByte (c : BitVec 16) : Byte := c.extractLsb' 0 8

/-- The high byte of a 16-bit checksum, `c >> 8` (20_memory.md R61). -/
def highByte (c : BitVec 16) : Byte := c.extractLsb' 8 8

/-- The length byte of a payload (R140, R141). -/
def lengthByte (pay : List Byte) : Byte := BitVec.ofNat 8 pay.length

/-- The five header bytes: start, control, command, length, header checksum (R141, 30_encoding.md R86). -/
def header (p : Params) (ctrl cmd : Byte) (pay : List Byte) : List Byte :=
  [p.start, ctrl, cmd, lengthByte pay, csum8 [ctrl, cmd, lengthByte pay]]

/-- `image(ctrl, cmd, pay)`, the unescaped image of a frame: short without a payload, else long (R141). -/
def image (p : Params) (ctrl cmd : Byte) (pay : List Byte) : List Byte :=
  if pay = [] then header p ctrl cmd pay
  else header p ctrl cmd pay ++ pay ++ [lowByte (csum16 pay), highByte (csum16 pay)]

/-- The raw bytes of one image byte after the first (R142, 30_encoding.md R89). -/
def stuffByte (p : Params) (b : Byte) : List Byte :=
  if b = p.start ∨ b = p.esc then [p.esc, b ^^^ p.mask] else [b]

/-- `stuff(u)`: the first byte as it stands, every later one escaped where it must be (R142). -/
def stuff (p : Params) : List Byte → List Byte
  | [] => []
  | b :: bs => b :: bs.flatMap (stuffByte p)

/-- The staged payload, `TX_PAY[0..TX_LEN-1]` (R144). -/
def stagedPayload (t : Tx) : List Byte := t.pay.toList.take t.len.toNat

/-- The raw bytes of the staged frame (R144). -/
def stagedRaw (p : Params) (t : Tx) : List Byte := stuff p (image p t.ctrl t.cmd (stagedPayload t))

/-- TXRAW for a raw frame: `raw[k]` below its length, 0 from there up (R144, 10_state.md R28). -/
def rawTable (raw : List Byte) : Vector Byte 523 := tabulate 523 fun k => raw.getD k 0

/-- TXRAW and TXRAW_LEN hold a raw frame (R144). -/
def State.storeRaw (s : State) (raw : List Byte) : State :=
  { s with tx := { s.tx with raw := rawTable raw, rawLen := BitVec.ofNat 10 raw.length } }

/-- FENC (R144). -/
def fencOp (p : Params) (s : State) : State :=
  respond .ok (BitVec.ofNat 32 (stagedRaw p s.tx).length) ((s.storeRaw (stagedRaw p s.tx)).setTxValid true)

/-! ### Receiving (R145, R146, R154) -/

/-- Write RXBUF and RX_IDLE (10_state.md R29, R30). -/
def State.setRxBuf (s : State) (buf : List Byte) (idle : BitVec 2) : State :=
  { s with rx := { s.rx with buf := buf, idle := idle } }

/-- RXDATA: F_RXOVF when RXBUF is full, else the byte joins it (R145). -/
def rxdataOp (p : Params) (b : Byte) (s : State) : State :=
  if s.rx.buf.length = p.rxbufCap then faultOut .fRxovf s
  else respond .ok (BitVec.ofNat 32 (s.rx.buf.length + 1)) (s.setRxBuf (s.rx.buf ++ [b]) 0)

/-- `min(RX_IDLE + 1, 2)` (R146). -/
def nextIdle (idle : BitVec 2) : BitVec 2 := BitVec.ofNat 2 (min (idle.toNat + 1) 2)

/-- RXIDLE (R146). -/
def rxidleOp (s : State) : State :=
  respond .ok ((nextIdle s.rx.idle).setWidth 32) (s.setRxBuf s.rx.buf (nextIdle s.rx.idle))

/-- RXFLUSH: the buffer is emptied and the number of discarded bytes answered (R154). -/
def rxflushOp (s : State) : State :=
  respond .ok (BitVec.ofNat 32 s.rx.buf.length) ((s.setRxBuf [] 0).setRxValid false)

/-! ### Decoding (R147 to R153) -/

/-- `resync(B)`: the bytes from the first START on, none if there is no START (R147). -/
def resync (p : Params) (buf : List Byte) : List Byte := buf.dropWhile (fun b => b != p.start)

/-- The total unescaped size a frame with this length byte has (R90, R148). -/
def totalSize (len : Byte) : Nat := if len = 0 then 5 else 7 + len.toNat

/-- The total size expected once `u` has been unescaped: decided when five bytes are known (R148). -/
def expectedSize (u : List Byte) (total : Nat) : Nat :=
  if u.length = 5 then totalSize (u.getD 3 0) else total

/-- What a scan found: the unescaped bytes, the number of raw bytes they took, and whether a whole frame is there (R148). -/
structure Scan where
  bytes : List Byte
  taken : Nat
  complete : Bool
deriving DecidableEq, Repr

/-- The loop of R148 over the raw bytes not looked at yet: `u` unescaped so far, `j` raw bytes taken, `total` the size
expected. An ESC with nothing after it is not taken; a raw START is data (R157). -/
def scanLoop (p : Params) : List Byte → List Byte → Nat → Nat → Scan
  | [], u, j, total => ⟨u, j, u.length == total⟩
  | b :: rest, u, j, total =>
    if u.length < total then
      if b = p.esc then
        match rest with
        | [] => ⟨u, j, u.length == total⟩
        | b' :: rest' =>
          scanLoop p rest' (u ++ [b' ^^^ p.mask]) (j + 2) (expectedSize (u ++ [b' ^^^ p.mask]) total)
      else scanLoop p rest (u ++ [b]) (j + 1) (expectedSize (u ++ [b]) total)
    else ⟨u, j, u.length == total⟩

/-- `scan(B1)` of a buffer that is empty or begins with START (R148). -/
def scan (p : Params) : List Byte → Scan
  | [] => ⟨[], 0, false⟩
  | b :: rest => scanLoop p rest [b] 1 5

/-- The received length byte `n = U[3]` (R151). -/
def frameLen (u : List Byte) : Nat := (u.getD 3 0).toNat

/-- HDR_OK (R151). -/
def headerOk (u : List Byte) : Bool := u.getD 4 0 == csum8 [u.getD 1 0, u.getD 2 0, u.getD 3 0]

/-- The received payload `U[5 .. 5+n)` (R151). -/
def framePayload (u : List Byte) : List Byte := (u.drop 5).take (frameLen u)

/-- RX_CS16: `U[5+n] + 256·U[6+n]`, 0 for a short frame (R151). -/
def frameCs16 (u : List Byte) : BitVec 16 :=
  if frameLen u = 0 then 0 else u.getD (6 + frameLen u) 0 ++ u.getD (5 + frameLen u) 0

/-- PAY_OK: true for a short frame (R151). -/
def payloadOk (u : List Byte) : Bool :=
  frameLen u == 0 || frameCs16 u == csum16 (framePayload u)

/-- RX_FLAGS of a received frame (R151). -/
def frameFlags (u : List Byte) : BitVec 3 := rxFlagsOf (frameLen u != 0) (payloadOk u) (headerOk u)

/-- The code of a delivery: OK if both checksums are good, else CORRUPT (R151). -/
def deliveryCode (u : List Byte) : Code := if headerOk u && payloadOk u then .ok else .corrupt

/-- RX_PAY for a received frame: payload byte `k` below its length, 0 from there up (R151, 10_state.md R31). -/
def payTable (u : List Byte) : Vector Byte 255 := tabulate 255 fun k => if k < frameLen u then u.getD (5 + k) 0 else 0

/-- `deliver(U)`: the received frame registers (R151). -/
def State.deliver (s : State) (u : List Byte) : State :=
  { s with rx := { s.rx with
      ctrl := u.getD 1 0
      cmd := u.getD 2 0
      len := u.getD 3 0
      cs8 := u.getD 4 0
      cs16 := frameCs16 u
      flags := frameFlags u
      pay := payTable u } }

/-- FDEC: a whole frame is delivered and the rest carried over; else TIMEOUT after two idle reads; else INCOMPLETE
(R150, R152, R153, R155). -/
def fdecOp (p : Params) (s : State) : State :=
  let b1 := resync p s.rx.buf
  let sc := scan p b1
  if sc.complete then
    respond (deliveryCode sc.bytes) ((frameFlags sc.bytes).setWidth 32)
      (((s.deliver sc.bytes).setRxBuf (b1.drop sc.taken) 0).setRxValid true)
  else if s.rx.idle = 2 then respond .timeout 0 ((s.setRxBuf [] 0).setRxValid false)
  else respond .incomplete 0 ((s.setRxBuf b1 s.rx.idle).setRxValid false)

/-! ### The commands -/

/-- FENC (R144). -/
def execFenc (s : State) : Host.Outcome State Fault Refusal := .next (fencOp Config.params s)

/-- RXDATA (R145). -/
def execRxdata (b : Byte) (s : State) : Host.Outcome State Fault Refusal := .next (rxdataOp Config.params b s)

/-- RXIDLE (R146). -/
def execRxidle (s : State) : Host.Outcome State Fault Refusal := .next (rxidleOp s)

/-- FDEC (R150). -/
def execFdec (s : State) : Host.Outcome State Fault Refusal := .next (fdecOp Config.params s)

/-- RXFLUSH (R154). -/
def execRxflush (s : State) : Host.Outcome State Fault Refusal := .next (rxflushOp s)

end Sys2Proof.Machine
end

