-- ==== Sys2Proof/Syntax.lean ====
section
/-! DEFINITION. The instructions (one command word each, 00_scope.md R15), the names of the registers, and the
assembler's lines (30_encoding.md R93, R94). -/

namespace Sys2Proof

/-- One constructor per row of spec/opcode_table.json (30_encoding.md R83). An operand has exactly the width of the
field it comes from (R80), so it holds no value that the field could not. -/
inductive Instr where
  | nop
  | rd (addr : RegAddr)
  | wr (addr : RegAddr) (data : Word)
  | csclr
  | cspush (b : Byte)
  | csrd8
  | csrd16
  | fenc
  | rxdata (b : Byte)
  | rxidle
  | fdec
  | rxflush
  | solve
  | refine
  | reset
deriving DecidableEq, Repr

/-- The operand forms (30_encoding.md R81). -/
inductive Form where
  | n
  | i
  | a
  | ad
deriving DecidableEq, Repr

/-- The form of each operation (30_encoding.md R83). -/
def Instr.form : Instr → Form
  | .nop => .n
  | .rd _ => .a
  | .wr _ _ => .ad
  | .csclr => .n
  | .cspush _ => .i
  | .csrd8 => .n
  | .csrd16 => .n
  | .fenc => .n
  | .rxdata _ => .i
  | .rxidle => .n
  | .fdec => .n
  | .rxflush => .n
  | .solve => .n
  | .refine => .n
  | .reset => .n

/-- The registers of the register map, by name (10_state.md R49). -/
inductive Reg where
  | id | status | fault
  | cfgStart | cfgEsc | cfgMask | cfgFs | cfgSs | cfgH | cfgCinv | cfgRxcap
  | csSum8 | csSum16 | csCnt
  | txCtrl | txCmd | txLen | txrawLen
  | txPay (k : Fin 255)
  | txraw (k : Fin 523)
  | rxCtrl | rxCmd | rxLen | rxFlags | rxCs8 | rxCs16 | rxbufLen | rxIdle
  | rxPay (k : Fin 255)
  | az | el | offX | offY | offZ | errlim | sctl
  | disabled | maxerr | sumsq0 | sumsq1 | sumsq2
  | pvalid (w : Fin 8)
  | corr (u : Unit16)
  | coarse (u : Unit16)
  | posX (i : Dipole)
  | posY (i : Dipole)
  | posZ (i : Dipole)
  | fine (i : Dipole)
  | err (i : Dipole)
deriving DecidableEq, Repr

/-- The access right of a register (10_state.md R21). -/
inductive Access where
  | ro
  | rw
deriving DecidableEq, Repr

/-- A register operand of the assembler: "a 16-bit address as a number, or a register name" (30_encoding.md R93). -/
inductive AsmReg where
  | address (n : Nat)
  | named (r : Reg)
deriving DecidableEq, Repr

/-- One line of assembler: a command, one of the three pseudo-instructions that stand for commands, or the
annotation `expect`, which is none (30_encoding.md R93, R94). Operands are the numbers as written. -/
inductive AsmLine where
  | nop
  | rd (r : AsmReg)
  | wr (r : AsmReg) (value : Int)
  | csclr
  | cspush (byte : Int)
  | csrd8
  | csrd16
  | fenc
  | rxdata (byte : Int)
  | rxidle
  | fdec
  | rxflush
  | solve
  | refine
  | reset
  | wrs (r : AsmReg) (values : List Int)
  | cspushs (bytes : List Int)
  | rxbytes (bytes : List Int)
  | expect (code value : Int)
deriving DecidableEq, Repr

end Sys2Proof
end

