-- ==== Sys2Proof/Machine/Operands.lean ====
section
/-! DEFINITION. The one operand form that reaches state: a register address (30_encoding.md R81). The register map
(10_state.md R49), its access rights (R21), legal values (R44), and reading and writing a register by name. -/

namespace Sys2Proof.Machine

/-- The address of a register (10_state.md R49). -/
def regNumber : Reg → Nat
  | .id => 0x0000
  | .status => 0x0001
  | .fault => 0x0002
  | .cfgStart => 0x0008
  | .cfgEsc => 0x0009
  | .cfgMask => 0x000A
  | .cfgFs => 0x000B
  | .cfgSs => 0x000C
  | .cfgH => 0x000D
  | .cfgCinv => 0x000E
  | .cfgRxcap => 0x000F
  | .csSum8 => 0x0100
  | .csSum16 => 0x0101
  | .csCnt => 0x0102
  | .txCtrl => 0x0200
  | .txCmd => 0x0201
  | .txLen => 0x0202
  | .txrawLen => 0x0203
  | .txPay k => 0x0300 + k.val
  | .txraw k => 0x0400 + k.val
  | .rxCtrl => 0x0800
  | .rxCmd => 0x0801
  | .rxLen => 0x0802
  | .rxFlags => 0x0803
  | .rxCs8 => 0x0804
  | .rxCs16 => 0x0805
  | .rxbufLen => 0x0806
  | .rxIdle => 0x0807
  | .rxPay k => 0x0900 + k.val
  | .az => 0x1000
  | .el => 0x1001
  | .offX => 0x1002
  | .offY => 0x1003
  | .offZ => 0x1004
  | .errlim => 0x1005
  | .sctl => 0x1006
  | .disabled => 0x1008
  | .maxerr => 0x1009
  | .sumsq0 => 0x100A
  | .sumsq1 => 0x100B
  | .sumsq2 => 0x100C
  | .pvalid w => 0x1010 + w.val
  | .corr u => 0x1020 + u.val
  | .coarse u => 0x1030 + u.val
  | .posX i => 0x1100 + i.val
  | .posY i => 0x1200 + i.val
  | .posZ i => 0x1300 + i.val
  | .fine i => 0x1400 + i.val
  | .err i => 0x1500 + i.val

/-- The address of a register as the `addr` field carries it. -/
def regAddr (r : Reg) : RegAddr := BitVec.ofNat 16 (regNumber r)

/-- The registers that are not arrays, in the order of R49. -/
def scalarRegs : List Reg :=
  [.id, .status, .fault, .cfgStart, .cfgEsc, .cfgMask, .cfgFs, .cfgSs, .cfgH, .cfgCinv, .cfgRxcap,
   .csSum8, .csSum16, .csCnt, .txCtrl, .txCmd, .txLen, .txrawLen,
   .rxCtrl, .rxCmd, .rxLen, .rxFlags, .rxCs8, .rxCs16, .rxbufLen, .rxIdle,
   .az, .el, .offX, .offY, .offZ, .errlim, .sctl, .disabled, .maxerr, .sumsq0, .sumsq1, .sumsq2]

/-- The index into an array of `len` registers that starts at `base`, if the address is one of its own. -/
def arrayIndex (base len a : Nat) : Option (Fin len) :=
  if h : a - base < len then if base ≤ a then some ⟨a - base, h⟩ else none else none

/-- The array register at an address, if there is one (R49). -/
def arrayRegAt (a : Nat) : Option Reg :=
  ((arrayIndex 0x0300 255 a).map .txPay).or <|
  ((arrayIndex 0x0400 523 a).map .txraw).or <|
  ((arrayIndex 0x0900 255 a).map .rxPay).or <|
  ((arrayIndex 0x1010 8 a).map .pvalid).or <|
  ((arrayIndex 0x1020 16 a).map .corr).or <|
  ((arrayIndex 0x1030 16 a).map .coarse).or <|
  ((arrayIndex 0x1100 256 a).map .posX).or <|
  ((arrayIndex 0x1200 256 a).map .posY).or <|
  ((arrayIndex 0x1300 256 a).map .posZ).or <|
  ((arrayIndex 0x1400 256 a).map .fine).or <|
  ((arrayIndex 0x1500 256 a).map .err)

/-- The register mapped at an address; none where the address is unmapped (R46, R49). -/
def regAt (a : RegAddr) : Option Reg :=
  (arrayRegAt a.toNat).or (scalarRegs.find? fun r => regNumber r == a.toNat)

/-- The access right of a register (R21, R49). -/
def access : Reg → Access
  | .txCtrl | .txCmd | .txLen | .txPay _ => .rw
  | .az | .el | .offX | .offY | .offZ | .errlim | .sctl => .rw
  | .pvalid _ | .corr _ | .posX _ | .posY _ | .posZ _ | .fine _ => .rw
  | .id | .status | .fault => .ro
  | .cfgStart | .cfgEsc | .cfgMask | .cfgFs | .cfgSs | .cfgH | .cfgCinv | .cfgRxcap => .ro
  | .csSum8 | .csSum16 | .csCnt => .ro
  | .txrawLen | .txraw _ => .ro
  | .rxCtrl | .rxCmd | .rxLen | .rxFlags | .rxCs8 | .rxCs16 | .rxbufLen | .rxIdle | .rxPay _ => .ro
  | .disabled | .maxerr | .sumsq0 | .sumsq1 | .sumsq2 | .coarse _ | .err _ => .ro

/-- `−bound < s32(data) < bound`. -/
def within (bound : Int) (data : Word) : Bool := -bound < data.toInt && data.toInt < bound

/-- The legal values of a WR, by register; a read-only register has none (R44). -/
def legalValue (r : Reg) (data : Word) : Bool :=
  match r with
  | .txCtrl | .txCmd | .txLen | .txPay _ => data.toNat ≤ 255
  | .az | .el | .errlim | .pvalid _ => true
  | .offX | .offY | .offZ | .posX _ | .posY _ | .posZ _ => within (2 ^ 28) data
  | .corr _ => within (2 ^ 27) data
  | .sctl => data.toNat ≤ 7
  | .fine _ => -16 ≤ data.toInt && data.toInt ≤ 16
  | .id | .status | .fault => false
  | .cfgStart | .cfgEsc | .cfgMask | .cfgFs | .cfgSs | .cfgH | .cfgCinv | .cfgRxcap => false
  | .csSum8 | .csSum16 | .csCnt => false
  | .txrawLen | .txraw _ => false
  | .rxCtrl | .rxCmd | .rxLen | .rxFlags | .rxCs8 | .rxCs16 | .rxbufLen | .rxIdle | .rxPay _ => false
  | .disabled | .maxerr | .sumsq0 | .sumsq1 | .sumsq2 | .coarse _ | .err _ => false

/-- `reg[NAME]`: the 32-bit contents of a register, a narrow one with 0 in the bits above (R21, 40_host_access.md R112).
ID and CFG are read-only views of constants (R22, R25), RXBUF_LEN of the length of RXBUF (R29). -/
def readReg (p : Params) (s : State) : Reg → Word
  | .id => 0x45444131
  | .status => statusWord s.status
  | .fault => s.fault.setWidth 32
  | .cfgStart => p.start.setWidth 32
  | .cfgEsc => p.esc.setWidth 32
  | .cfgMask => p.mask.setWidth 32
  | .cfgFs => BitVec.ofNat 32 p.fs
  | .cfgSs => BitVec.ofNat 32 p.ss
  | .cfgH => BitVec.ofNat 32 p.h
  | .cfgCinv => BitVec.ofNat 32 p.cInv
  | .cfgRxcap => BitVec.ofNat 32 p.rxbufCap
  | .csSum8 => s.csu.sum8
  | .csSum16 => s.csu.sum16
  | .csCnt => s.csu.cnt.setWidth 32
  | .txCtrl => s.tx.ctrl.setWidth 32
  | .txCmd => s.tx.cmd.setWidth 32
  | .txLen => s.tx.len.setWidth 32
  | .txrawLen => s.tx.rawLen.setWidth 32
  | .txPay k => s.tx.pay[k.val].setWidth 32
  | .txraw k => s.tx.raw[k.val].setWidth 32
  | .rxCtrl => s.rx.ctrl.setWidth 32
  | .rxCmd => s.rx.cmd.setWidth 32
  | .rxLen => s.rx.len.setWidth 32
  | .rxFlags => s.rx.flags.setWidth 32
  | .rxCs8 => s.rx.cs8.setWidth 32
  | .rxCs16 => s.rx.cs16.setWidth 32
  | .rxbufLen => (BitVec.ofNat 16 s.rx.buf.length).setWidth 32
  | .rxIdle => s.rx.idle.setWidth 32
  | .rxPay k => s.rx.pay[k.val].setWidth 32
  | .az => s.din.az
  | .el => s.din.el
  | .offX => s.din.offX
  | .offY => s.din.offY
  | .offZ => s.din.offZ
  | .errlim => s.din.errlim
  | .sctl => s.din.sctl.setWidth 32
  | .disabled => s.dout.disabled.setWidth 32
  | .maxerr => s.dout.maxerr
  | .sumsq0 => s.dout.sumsq0
  | .sumsq1 => s.dout.sumsq1
  | .sumsq2 => s.dout.sumsq2
  | .pvalid w => s.din.pvalid[w.val]
  | .corr u => s.din.corr[u.val]
  | .coarse u => s.dout.coarse[u.val]
  | .posX i => s.din.posX[i.val]
  | .posY i => s.din.posY[i.val]
  | .posZ i => s.din.posZ[i.val]
  | .fine i => s.fine[i.val]
  | .err i => s.dout.err[i.val]

/-- `reg[NAME] <- data` for a writable register and a legal value: the register holds the data, in its own width
(R21, R44, 40_host_access.md R113). A read-only register is never written this way; it stays as it is. -/
def writeReg (r : Reg) (data : Word) (s : State) : State :=
  match r with
  | .txCtrl => { s with tx := { s.tx with ctrl := data.setWidth 8 } }
  | .txCmd => { s with tx := { s.tx with cmd := data.setWidth 8 } }
  | .txLen => { s with tx := { s.tx with len := data.setWidth 8 } }
  | .txPay k => { s with tx := { s.tx with pay := s.tx.pay.set k.val (data.setWidth 8) } }
  | .az => { s with din := { s.din with az := data } }
  | .el => { s with din := { s.din with el := data } }
  | .offX => { s with din := { s.din with offX := data } }
  | .offY => { s with din := { s.din with offY := data } }
  | .offZ => { s with din := { s.din with offZ := data } }
  | .errlim => { s with din := { s.din with errlim := data } }
  | .sctl => { s with din := { s.din with sctl := data.setWidth 3 } }
  | .pvalid w => { s with din := { s.din with pvalid := s.din.pvalid.set w.val data } }
  | .corr u => { s with din := { s.din with corr := s.din.corr.set u.val data } }
  | .posX i => { s with din := { s.din with posX := s.din.posX.set i.val data } }
  | .posY i => { s with din := { s.din with posY := s.din.posY.set i.val data } }
  | .posZ i => { s with din := { s.din with posZ := s.din.posZ.set i.val data } }
  | .fine i => { s with fine := s.fine.set i.val data }
  | .id | .status | .fault => s
  | .cfgStart | .cfgEsc | .cfgMask | .cfgFs | .cfgSs | .cfgH | .cfgCinv | .cfgRxcap => s
  | .csSum8 | .csSum16 | .csCnt => s
  | .txrawLen | .txraw _ => s
  | .rxCtrl | .rxCmd | .rxLen | .rxFlags | .rxCs8 | .rxCs16 | .rxbufLen | .rxIdle | .rxPay _ => s
  | .disabled | .maxerr | .sumsq0 | .sumsq1 | .sumsq2 | .coarse _ | .err _ => s

end Sys2Proof.Machine
end

