-- ==== Sys2Proof/Machine/HostAccess.lean ====
section
/-! DEFINITION. The host access commands NOP, RD, WR, RESET (40_host_access.md R111 to R114). -/

namespace Sys2Proof.Machine

/-- NOP: `respond(OK, 0)`, LASTCODE unchanged (R111). -/
def nopOp (s : State) : State := respondQuietly .ok 0 s

/-- RD of an address that holds this register, or of an unmapped one (R112). -/
def rdOp (p : Params) (addr : RegAddr) (s : State) : State :=
  match regAt addr with
  | none => faultOut .fAddr s
  | some r => respondQuietly .ok (readReg p s r) s

/-- WR: F_ADDR for an unmapped or read-only address, then F_RANGE for an illegal value, else the register holds
the data (R113, 60_exceptions.md R224). -/
def wrOp (addr : RegAddr) (data : Word) (s : State) : State :=
  match regAt addr with
  | none => faultOut .fAddr s
  | some r =>
    if access r = .ro then faultOut .fAddr s
    else if legalValue r data = false then faultOut .fRange s
    else respond .ok 0 (writeReg r data s)

/-- Every piece of state of the block at its reset value (10_state.md R45); what has arrived at the ports and what
has been answered is not state of the block and stays (log 5). -/
def resetBlock (s : State) : State :=
  { State.reset with pending := s.pending, responses := s.responses }

/-- RESET: the reset state, then `respond(OK, 0)` (R114). -/
def resetOp (s : State) : State := respond .ok 0 (resetBlock s)

/-- NOP (R111). -/
def execNop (s : State) : Host.Outcome State Fault Refusal := .next (nopOp s)

/-- RD (R112). -/
def execRd (addr : RegAddr) (s : State) : Host.Outcome State Fault Refusal := .next (rdOp Config.params addr s)

/-- WR (R113). -/
def execWr (addr : RegAddr) (data : Word) (s : State) : Host.Outcome State Fault Refusal := .next (wrOp addr data s)

/-- RESET (R114). -/
def execReset (s : State) : Host.Outcome State Fault Refusal := .next (resetOp s)

end Sys2Proof.Machine
end

