-- ==== Sys2Proof/Machine/Dispatch.lean ====
section
/-! DEFINITION. One arm per instruction (30_encoding.md R83), each a direct call of its meaning. -/

namespace Sys2Proof.Machine

def exec (i : Instr) (s : State) : Host.Outcome State Fault Refusal :=
  match i with
  | .nop => Sys2Proof.Machine.execNop s
  | .rd addr => Sys2Proof.Machine.execRd addr s
  | .wr addr data => Sys2Proof.Machine.execWr addr data s
  | .csclr => Sys2Proof.Machine.execCsclr s
  | .cspush b => Sys2Proof.Machine.execCspush b s
  | .csrd8 => Sys2Proof.Machine.execCsrd8 s
  | .csrd16 => Sys2Proof.Machine.execCsrd16 s
  | .fenc => Sys2Proof.Machine.execFenc s
  | .rxdata b => Sys2Proof.Machine.execRxdata b s
  | .rxidle => Sys2Proof.Machine.execRxidle s
  | .fdec => Sys2Proof.Machine.execFdec s
  | .rxflush => Sys2Proof.Machine.execRxflush s
  | .solve => Sys2Proof.Machine.execSolve s
  | .refine => Sys2Proof.Machine.execRefine s
  | .reset => Sys2Proof.Machine.execReset s

end Sys2Proof.Machine
end

