-- ==== Sys2Proof/Decode.lean ====
section
/-! DEFINITION. The command word: its fields, the opcode map, the decoder and the encoder (30_encoding.md R80 to R85). -/

namespace Sys2Proof

/-! ### Fields (R80) -/

/-- `op = cw[7:0]`. -/
def opField (cw : PortWord) : BitVec 8 := cw.extractLsb' 0 8

/-- `imm8 = cw[15:8]`. -/
def imm8Field (cw : PortWord) : Byte := cw.extractLsb' 8 8

/-- `addr = cw[31:16]`. -/
def addrField (cw : PortWord) : RegAddr := cw.extractLsb' 16 16

/-- `data = cw[63:32]`. -/
def dataField (cw : PortWord) : Word := cw.extractLsb' 32 32

/-- "The command word is `{data, addr, imm8, op}`" (R93, R80). -/
def packWord (data : Word) (addr : RegAddr) (imm8 : Byte) (op : BitVec 8) : PortWord :=
  data ++ addr ++ imm8 ++ op

/-! ### Decoding (R81, R83, R84) -/

/-- Why a command word is illegal (R84). -/
inductive Illegal where
  /-- `op` is not one of the fifteen values of R83. -/
  | unknownOp (op : BitVec 8)
  /-- `imm8` is not zero and the form does not use it. -/
  | nonzeroImm8
  /-- `addr` is not zero and the form does not use it. -/
  | nonzeroAddr
  /-- `data` is not zero and the form does not use it. -/
  | nonzeroData
deriving DecidableEq, Repr

/-- The first field that a form does not use and that is not zero in the word (R81). -/
def unusedFieldError (f : Form) (cw : PortWord) : Option Illegal :=
  if f ≠ .i ∧ imm8Field cw ≠ 0 then some .nonzeroImm8
  else if (f = .n ∨ f = .i) ∧ addrField cw ≠ 0 then some .nonzeroAddr
  else if f ≠ .ad ∧ dataField cw ≠ 0 then some .nonzeroData
  else none

/-- The operation an `op` value names, with its operands read from the fields of the word (R83). -/
def instrOfOp (cw : PortWord) : Option Instr :=
  match (opField cw).toNat with
  | 0x00 => some .nop
  | 0x01 => some (.rd (addrField cw))
  | 0x02 => some (.wr (addrField cw) (dataField cw))
  | 0x10 => some .csclr
  | 0x11 => some (.cspush (imm8Field cw))
  | 0x12 => some .csrd8
  | 0x13 => some .csrd16
  | 0x20 => some .fenc
  | 0x21 => some (.rxdata (imm8Field cw))
  | 0x22 => some .rxidle
  | 0x23 => some .fdec
  | 0x24 => some .rxflush
  | 0x30 => some .solve
  | 0x31 => some .refine
  | 0xFF => some .reset
  | _ => none

/-- "A decoder reads `op` and then checks that the fields the operation does not use are zero" (R80). Total:
every word is one instruction or illegal by name (R84). -/
def decode (cw : PortWord) : Except Illegal Instr :=
  match instrOfOp cw with
  | none => .error (.unknownOp (opField cw))
  | some i =>
    match unusedFieldError i.form cw with
    | some e => .error e
    | none => .ok i

/-- The host's question: a command word is one 64-bit value, so the table's bits are the word's bits (R62, R80). -/
def decodeTableWord (nbits w : Nat) : Option Instr :=
  (decode (BitVec.ofNat 64 (w % 2 ^ nbits))).toOption

/-! ### Encoding (R80, R81, R83) -/

/-- The `op` value of an instruction (R83). -/
def opcode : Instr → BitVec 8
  | .nop => 0x00
  | .rd _ => 0x01
  | .wr _ _ => 0x02
  | .csclr => 0x10
  | .cspush _ => 0x11
  | .csrd8 => 0x12
  | .csrd16 => 0x13
  | .fenc => 0x20
  | .rxdata _ => 0x21
  | .rxidle => 0x22
  | .fdec => 0x23
  | .rxflush => 0x24
  | .solve => 0x30
  | .refine => 0x31
  | .reset => 0xFF

/-- The command word of an instruction: its operands in their fields, every other field zero (R81). -/
def encode : Instr → PortWord
  | .rd addr => packWord 0 addr 0 0x01
  | .wr addr data => packWord data addr 0 0x02
  | .cspush b => packWord 0 0 b 0x11
  | .rxdata b => packWord 0 0 b 0x21
  | .nop => packWord 0 0 0 0x00
  | .csclr => packWord 0 0 0 0x10
  | .csrd8 => packWord 0 0 0 0x12
  | .csrd16 => packWord 0 0 0 0x13
  | .fenc => packWord 0 0 0 0x20
  | .rxidle => packWord 0 0 0 0x22
  | .fdec => packWord 0 0 0 0x23
  | .rxflush => packWord 0 0 0 0x24
  | .solve => packWord 0 0 0 0x30
  | .refine => packWord 0 0 0 0x31
  | .reset => packWord 0 0 0 0xFF

/-! ### The opcode map as a table of match and mask (R83) -/

/-- A row of the opcode map: "`cw and mask = match` selects the row" (R83). -/
structure OpRow where
  op : BitVec 8
  mnemonic : String
  form : Form
  pattern : PortWord
  mask : PortWord
deriving DecidableEq, Repr

/-- The fifteen rows of R83, in the order of the table. -/
def opcodeMap : List OpRow :=
  [⟨0x00, "NOP", .n, 0x0000000000000000, 0xFFFFFFFFFFFFFFFF⟩,
   ⟨0x01, "RD", .a, 0x0000000000000001, 0xFFFFFFFF0000FFFF⟩,
   ⟨0x02, "WR", .ad, 0x0000000000000002, 0x000000000000FFFF⟩,
   ⟨0x10, "CSCLR", .n, 0x0000000000000010, 0xFFFFFFFFFFFFFFFF⟩,
   ⟨0x11, "CSPUSH", .i, 0x0000000000000011, 0xFFFFFFFFFFFF00FF⟩,
   ⟨0x12, "CSRD8", .n, 0x0000000000000012, 0xFFFFFFFFFFFFFFFF⟩,
   ⟨0x13, "CSRD16", .n, 0x0000000000000013, 0xFFFFFFFFFFFFFFFF⟩,
   ⟨0x20, "FENC", .n, 0x0000000000000020, 0xFFFFFFFFFFFFFFFF⟩,
   ⟨0x21, "RXDATA", .i, 0x0000000000000021, 0xFFFFFFFFFFFF00FF⟩,
   ⟨0x22, "RXIDLE", .n, 0x0000000000000022, 0xFFFFFFFFFFFFFFFF⟩,
   ⟨0x23, "FDEC", .n, 0x0000000000000023, 0xFFFFFFFFFFFFFFFF⟩,
   ⟨0x24, "RXFLUSH", .n, 0x0000000000000024, 0xFFFFFFFFFFFFFFFF⟩,
   ⟨0x30, "SOLVE", .n, 0x0000000000000030, 0xFFFFFFFFFFFFFFFF⟩,
   ⟨0x31, "REFINE", .n, 0x0000000000000031, 0xFFFFFFFFFFFFFFFF⟩,
   ⟨0xFF, "RESET", .n, 0x00000000000000FF, 0xFFFFFFFFFFFFFFFF⟩]

/-- The rows of the map that a word is selected by (R83, R84). -/
def rowsOf (cw : PortWord) : List OpRow :=
  opcodeMap.filter fun r => cw &&& r.mask == r.pattern

end Sys2Proof
end

