-- ==== Sys2Proof/Machine/Fetch.lean ====
section
/-! DEFINITION. Taking what arrives at the ports (20_memory.md R67), the fault of an illegal word (30_encoding.md R84),
and the hardware reset input (70_reset_and_hazards.md R250, R262). -/

namespace Sys2Proof.Machine

/-- The arrival that is next in order, and the state with it taken; none when nothing has arrived (R67, R254). -/
def takeArrival (s : State) : Option (Arrival × State) :=
  match s.pending with
  | [] => none
  | a :: rest => some (a, { s with pending := rest })

/-- A command word presented to the command port ahead of everything that waits there (log 3). -/
def presentWord (cw : PortWord) (s : State) : State := { s with pending := .command cw :: s.pending }

/-- A word of the host's table as a command word: its lowest `nbits` bits, zeros above (R80). -/
def tableWord (nbits w : Nat) : PortWord := BitVec.ofNat 64 (w % 2 ^ nbits)

/-- An illegal command word: the fault F_ILLEGAL and nothing else, whatever made it illegal (R84, R110). -/
def execIllegal (_e : Illegal) (s : State) : Host.Outcome State Fault Refusal := .next (faultOut .fIllegal s)

/-- The hardware reset input: the reset state and no response word, whether it falls between two commands or cuts one
short (R250, R262). -/
def execHardReset (s : State) : Host.Outcome State Fault Refusal := .next (resetBlock s)

/-- Nothing has arrived: "between commands it does nothing" (60_exceptions.md R232, R251). -/
def execIdle (s : State) : Host.Outcome State Fault Refusal := .next s

end Sys2Proof.Machine
end

