-- ==== Sys2Proof/Machine/Step.lean ====
section
/-! DEFINITION. One step: the next arrival is taken and performed wholly (20_memory.md R67, 40_host_access.md R110). -/

namespace Sys2Proof.Machine

/-- The steps of R110: decode, then the fault F_ILLEGAL or the operation's own rule. -/
def runWord (cw : PortWord) (s : State) : Host.Outcome State Fault Refusal :=
  match decode cw with
  | .error e => execIllegal e s
  | .ok i => exec i s

/-- What one arrival does (R67, R250, R262). -/
def perform (a : Arrival) (s : State) : Host.Outcome State Fault Refusal :=
  match a with
  | .command cw => runWord cw s
  | .resetInput => execHardReset s
  | .commandCutByReset _ => execHardReset s

/-- One step of the machine (R67). -/
def step (s : State) : Host.Outcome State Fault Refusal :=
  match takeArrival s with
  | none => execIdle s
  | some (a, s') => perform a s'

/-- The host's: the word presented as the next command word, so that the very next step runs it (log 3). -/
def State.withFetchWord (s : State) (nbits w : Nat) : State := presentWord (tableWord nbits w) s

end Sys2Proof.Machine
end

