-- ==== Sys2Proof/Safety.lean ====
section
/-! DEFINITION. What a safe run is, and the invariant of the block: what its registers hold in every state that a run
reaches. Each clause is a sentence of 10_state.md, or of the bounds of 43_delay_solver.md R176. -/

namespace Sys2Proof.Machine

/-- A signed register whose magnitude is below a bound. -/
def SignedBelow (bound : Int) (w : Word) : Prop := -bound < w.toInt ∧ w.toInt < bound

/-- The 96-bit sum of squares, "`SUMSQ0 + 2^32·SUMSQ1 + 2^64·SUMSQ2`" (10_state.md R41). -/
def sumsqValue (o : SolverOut) : Nat := o.sumsq0.toNat + 2 ^ 32 * o.sumsq1.toNat + 2 ^ 64 * o.sumsq2.toNat

/-- The solver's inputs are in their legal ranges (10_state.md R44). -/
structure InputsLegal (d : SolverIn) : Prop where
  offX : SignedBelow (2 ^ 28) d.offX
  offY : SignedBelow (2 ^ 28) d.offY
  offZ : SignedBelow (2 ^ 28) d.offZ
  posX : ∀ i : Dipole, SignedBelow (2 ^ 28) d.posX[i]
  posY : ∀ i : Dipole, SignedBelow (2 ^ 28) d.posY[i]
  posZ : ∀ i : Dipole, SignedBelow (2 ^ 28) d.posZ[i]
  corr : ∀ u : Unit16, SignedBelow (2 ^ 27) d.corr[u]

/-- A table of fine delays each of which is at most what a solve or the host can write: `abs(f·FS) < 2^28 + 2^24`
(R176; a host write is in -16..16, 10_state.md R38). -/
def FineBounded (p : Params) (fine : Vector Word 256) : Prop :=
  ∀ i : Dipole, |(fine[i]).toInt * (p.fs : Int)| < 2 ^ 28 + 2 ^ 24

/-- The solver's outputs are within the bounds of R39 to R41 and R176. -/
structure OutputsBounded (p : Params) (o : SolverOut) : Prop where
  coarse : ∀ u : Unit16, coarseMin p ≤ (o.coarse[u]).toInt ∧ (o.coarse[u]).toInt ≤ coarseMax p
  err : ∀ i : Dipole, SignedBelow (2 ^ 30) o.err[i]
  disabled : o.disabled.toNat ≤ 256
  maxerr : o.maxerr.toNat < 2 ^ 30
  sumsq : sumsqValue o < 2 ^ 68

/-- The accumulators cannot have wrapped: each byte adds at most 255, or 255·256 (10_state.md R26). -/
structure CsuBounded (c : Csu) : Prop where
  sum8 : c.sum8.toNat ≤ 255 * c.cnt.toNat
  sum16 : c.sum16.toNat ≤ 65280 * c.cnt.toNat

/-- TXRAW: at most 523 bytes, 0 from TXRAW_LEN up, and, once a FENC has run, a frame that begins with START
(10_state.md R28, R23). -/
structure TxShape (p : Params) (st : Status) (t : Tx) : Prop where
  rawLen : t.rawLen.toNat ≤ 523
  rawZero : ∀ k : Fin 523, t.rawLen.toNat ≤ k.val → t.raw[k] = 0
  started : st.txValid = true → 5 ≤ t.rawLen.toNat ∧ t.raw[0] = p.start

/-- The receive side: RXBUF within its capacity, RX_IDLE 0, 1 or 2, RX_PAY 0 from RX_LEN up, and, while RX_VALID is 1,
flags that say what R32 says of the registers (10_state.md R29 to R32). -/
structure RxShape (p : Params) (st : Status) (r : Rx) : Prop where
  bufLen : r.buf.length ≤ p.rxbufCap
  idle : r.idle.toNat ≤ 2
  payZero : ∀ k : Fin 255, r.len.toNat ≤ k.val → r.pay[k] = 0
  flags : st.rxValid = true → r.flags =
    rxFlagsOf (r.len != 0)
      (r.len == 0 || r.cs16 == csum16 (r.pay.toList.take r.len.toNat))
      (r.cs8 == csum8 [r.ctrl, r.cmd, r.len])
  shortCs16 : st.rxValid = true → r.len = 0 → r.cs16 = 0

/-- The invariant of an instance with parameters `p`. -/
structure Inv (p : Params) (s : State) : Prop where
  /-- "No other value appears ... in `STATUS.LASTCODE`" (60_exceptions.md R221). -/
  lastCode : ∃ c : Code, s.status.lastCode = c.bits
  csu : CsuBounded s.csu
  tx : TxShape p s.status s.tx
  rx : RxShape p s.status s.rx
  inputs : InputsLegal s.din
  fine : FineBounded p s.fine
  outputs : OutputsBounded p s.dout

/-- A run of `n` steps goes on: no step of it stops the machine (60_exceptions.md R223, R233). -/
def RunsOn (n : Nat) (s : State) : Prop := ∃ t, Host.Core.run Sys2Proof.core n s = .next t

end Sys2Proof.Machine
end

