-- ==== Sys2Proof/Certificates/Slice0/Obligations.lean ====
section
/-! DEFINITION. The statements for the provers. `Config.params` is the unknown instance (R7, R9, R14; log 1); a
statement about the functions of the checksum, the frame or the solver is for every parameter set `p`. The response word
that a command produces (R82) is the last entry of the list `responses`, which is the model's own record (log 4), as is
`pending`, what has arrived and is not taken yet (log 3). -/

open Sys2Proof Sys2Proof.Machine

/-! ### The command port: decoding and the step -/

/-- R110 (1), R67: a step takes the command word that is next and runs the instruction it decodes to, on the state
with that word taken. The list `pending` is the model's own (log 3). -/
def Obligations.StepRunsDecodedInstruction : Prop :=
  ∀ (s : State) (cw : PortWord) (rest : List Arrival) (i : Instr),
    s.pending = .command cw :: rest → decode cw = .ok i → step s = exec i { s with pending := rest }

/-- R84, R223: an illegal word sets FAULT[0], writes LASTCODE, responds `(0x80, 0)` and changes nothing else. -/
def Obligations.IllegalWordFaults : Prop :=
  ∀ (s : State) (cw : PortWord) (rest : List Arrival) (e : Illegal),
    s.pending = .command cw :: rest → decode cw = .error e →
    step s = .next { s with
      pending := rest
      fault := s.fault ||| 0b00001
      status := { s.status with lastCode := 0x80 }
      responses := s.responses ++ [0x0000000000000080] }

/-- R84, R81, R83: a word decodes exactly when its `op` is one of the fifteen and every field its form does not use is
zero, and then exactly one row of the opcode map selects it, the row of the instruction's own `op` and form. -/
def Obligations.DecodeSelectsExactlyOneRow : Prop :=
  ∀ cw : PortWord,
    (∃ i r, decode cw = .ok i ∧ rowsOf cw = [r] ∧ r.op = opField cw ∧ r.op = opcode i ∧ r.form = i.form) ∨
    (∃ e, decode cw = .error e ∧ rowsOf cw = [])

/-- R80, R81, R83: every instruction, with every operand at every value of its field, decodes from its own word. -/
def Obligations.DecodeEncodeRoundTrip : Prop :=
  ∀ i : Instr, decode (encode i) = .ok i

/-- R80, R81, R84: no two words decode to one instruction: a word that decodes is the word of what it decodes to. -/
def Obligations.EncodeDecodeRoundTrip : Prop :=
  ∀ (cw : PortWord) (i : Instr), decode cw = .ok i → encode i = cw

/-- Words written out in 30_encoding.md R93, 40_host_access.md and 41_checksum.md to 43_delay_solver.md. -/
def Obligations.DecodeReadsTheSpecsWords : Prop :=
  decode 0x0000000000000023 = .ok .fdec ∧
  decode 0x0000000000007E11 = .ok (.cspush 0x7E) ∧
  decode 0x0000000000010001 = .ok (.rd 0x0001) ∧
  decode 0x005A000010010002 = .ok (.wr 0x1001 0x005A0000) ∧
  decode 0x0000000000007E21 = .ok (.rxdata 0x7E) ∧
  decode 0x0000000000000030 = .ok .solve ∧
  decode 0x00000000000000FF = .ok .reset ∧
  decode 0x0000000000000123 = .error .nonzeroImm8 ∧
  decode 0x0000000100000010 = .error .nonzeroData ∧
  decode 0x0000000000000040 = .error (.unknownOp 0x40)

/-- R82: the fields of a response word. -/
def Obligations.ResponseWordHasItsFields : Prop :=
  ∀ (c : Code) (v : Word),
    (responseWord c v).extractLsb' 0 8 = c.bits ∧
    (responseWord c v).extractLsb' 8 24 = 0 ∧
    (responseWord c v).extractLsb' 32 32 = v

/-- R250, R251, R262: the hardware reset input leaves the reset state and no response word, and does so also when it
cuts a command short; with nothing arrived the block does nothing. What has not arrived yet and what was answered is
the model's own record and stays (log 3, log 5). -/
def Obligations.HardwareResetAndIdle : Prop :=
  (∀ (s : State) (rest : List Arrival), s.pending = .resetInput :: rest →
    step s = .next { State.reset with pending := rest, responses := s.responses }) ∧
  (∀ (s : State) (cw : PortWord) (rest : List Arrival), s.pending = .commandCutByReset cw :: rest →
    step s = .next { State.reset with pending := rest, responses := s.responses }) ∧
  (∀ s : State, s.pending = [] → step s = .next s)

/-- R82, R221, R233: a step that takes a command word produces exactly one response word, whose code is one of the
twelve, and leaves the rest of what has arrived. -/
def Obligations.EveryCommandIsAnsweredOnce : Prop :=
  ∀ (s : State) (cw : PortWord) (rest : List Arrival), s.pending = .command cw :: rest →
    ∃ (t : State) (c : Code) (v : Word), step s = .next t ∧ t.pending = rest ∧
      t.responses = s.responses ++ [responseWord c v] ∧ c ∈ allCodes

/-- R223 (5), R233: no state stops the machine, in any number of steps. -/
def Obligations.EveryRunGoesOn : Prop :=
  ∀ (n : Nat) (s : State), RunsOn n s

/-- R223: a command that ends in a fault changes nothing but the FAULT bit, LASTCODE and the response `(code, 0)`;
R225: a command that does not end in a fault, other than RESET, leaves FAULT as it is. -/
def Obligations.FaultsArePrecise : Prop :=
  ∀ (i : Instr) (s : State), ∃ (t : State) (c : Code) (v : Word),
    exec i s = .next t ∧ t.responses = s.responses ++ [responseWord c v] ∧
    (c.bits.getLsbD 7 = true →
      t = { s with
        fault := s.fault ||| c.faultBit
        status := { s.status with lastCode := c.bits }
        responses := s.responses ++ [responseWord c 0] }) ∧
    (c.bits.getLsbD 7 = false → i ≠ .reset → t.fault = s.fault)

/-! ### Host access -/

/-- R111: NOP responds `(OK, 0)` and changes nothing, LASTCODE included; the all-zero word is NOP, and a word with
`op = 0` and any non-zero field is illegal. -/
def Obligations.NopOnlyAnswers : Prop :=
  opcode .nop = 0x00 ∧
  (∀ s : State, exec .nop s = .next { s with responses := s.responses ++ [0x0000000000000000] }) ∧
  decode 0 = .ok .nop ∧
  (∀ cw : PortWord, opField cw = 0 → cw ≠ 0 → ∃ e, decode cw = .error e)

/-- R112, R64, R46: RD answers the contents of the register at a mapped address and changes nothing else, LASTCODE
included; at any other address it is the fault F_ADDR. The contents of every register but STATUS (R23, which
StatusReadsItsFields states) are those of its own piece of state, a narrow one with 0 in the bits above (R21, R22, R24 to
R41); RXBUF_LEN is the number of bytes in RXBUF, which is at most RXBUF_CAP (R29). -/
def Obligations.RdAnswersTheRegister : Prop :=
  opcode (.rd 0) = 0x01 ∧
  (∀ (r : Reg) (s : State), exec (.rd (regAddr r)) s =
    .next { s with responses := s.responses ++ [responseWord .ok (readReg Config.params s r)] }) ∧
  (∀ (a : RegAddr) (s : State), (∀ r : Reg, a ≠ regAddr r) → exec (.rd a) s =
    .next { s with
      fault := s.fault ||| 0b00010
      status := { s.status with lastCode := 0x81 }
      responses := s.responses ++ [0x0000000000000081] }) ∧
  (∀ (p : Params) (s : State),
    (readReg p s .id = 0x45444131 ∧ (readReg p s .fault).toNat = s.fault.toNat) ∧
    ((readReg p s .cfgStart).toNat = p.start.toNat ∧ (readReg p s .cfgEsc).toNat = p.esc.toNat ∧
      (readReg p s .cfgMask).toNat = p.mask.toNat ∧ (readReg p s .cfgFs).toNat = p.fs ∧
      (readReg p s .cfgSs).toNat = p.ss ∧ (readReg p s .cfgH).toNat = p.h ∧
      (readReg p s .cfgCinv).toNat = p.cInv ∧ (readReg p s .cfgRxcap).toNat = p.rxbufCap) ∧
    (readReg p s .csSum8 = s.csu.sum8 ∧ readReg p s .csSum16 = s.csu.sum16 ∧
      (readReg p s .csCnt).toNat = s.csu.cnt.toNat) ∧
    ((readReg p s .txCtrl).toNat = s.tx.ctrl.toNat ∧ (readReg p s .txCmd).toNat = s.tx.cmd.toNat ∧
      (readReg p s .txLen).toNat = s.tx.len.toNat ∧ (readReg p s .txrawLen).toNat = s.tx.rawLen.toNat ∧
      (∀ k : Fin 255, (readReg p s (.txPay k)).toNat = (s.tx.pay[k]).toNat) ∧
      (∀ k : Fin 523, (readReg p s (.txraw k)).toNat = (s.tx.raw[k]).toNat)) ∧
    ((readReg p s .rxCtrl).toNat = s.rx.ctrl.toNat ∧ (readReg p s .rxCmd).toNat = s.rx.cmd.toNat ∧
      (readReg p s .rxLen).toNat = s.rx.len.toNat ∧ (readReg p s .rxFlags).toNat = s.rx.flags.toNat ∧
      (readReg p s .rxCs8).toNat = s.rx.cs8.toNat ∧ (readReg p s .rxCs16).toNat = s.rx.cs16.toNat ∧
      (readReg p s .rxIdle).toNat = s.rx.idle.toNat ∧
      (s.rx.buf.length ≤ p.rxbufCap → (readReg p s .rxbufLen).toNat = s.rx.buf.length) ∧
      (∀ k : Fin 255, (readReg p s (.rxPay k)).toNat = (s.rx.pay[k]).toNat)) ∧
    (readReg p s .az = s.din.az ∧ readReg p s .el = s.din.el ∧ readReg p s .offX = s.din.offX ∧
      readReg p s .offY = s.din.offY ∧ readReg p s .offZ = s.din.offZ ∧ readReg p s .errlim = s.din.errlim ∧
      (readReg p s .sctl).toNat = s.din.sctl.toNat ∧
      (∀ w : Fin 8, readReg p s (.pvalid w) = s.din.pvalid[w]) ∧
      (∀ u : Unit16, readReg p s (.corr u) = s.din.corr[u]) ∧
      (∀ i : Dipole, readReg p s (.posX i) = s.din.posX[i] ∧ readReg p s (.posY i) = s.din.posY[i] ∧
        readReg p s (.posZ i) = s.din.posZ[i] ∧ readReg p s (.fine i) = s.fine[i])) ∧
    ((readReg p s .disabled).toNat = s.dout.disabled.toNat ∧ readReg p s .maxerr = s.dout.maxerr ∧
      readReg p s .sumsq0 = s.dout.sumsq0 ∧ readReg p s .sumsq1 = s.dout.sumsq1 ∧
      readReg p s .sumsq2 = s.dout.sumsq2 ∧
      (∀ u : Unit16, readReg p s (.coarse u) = s.dout.coarse[u]) ∧
      (∀ i : Dipole, readReg p s (.err i) = s.dout.err[i])))

/-- R113, R44: WR of a legal value to a writable register: the register then reads as the data, every other register
but STATUS reads as before, the buffer of received bytes is as before, of STATUS only LASTCODE is written, and the
response is `(OK, 0)`. -/
def Obligations.WrStoresALegalValue : Prop :=
  ∀ (r : Reg) (d : Word) (s : State), access r = .rw → legalValue r d = true →
    ∃ t : State, exec (.wr (regAddr r) d) s = .next t ∧
      readReg Config.params t r = d ∧
      (∀ r' : Reg, r' ≠ r → r' ≠ .status → readReg Config.params t r' = readReg Config.params s r') ∧
      t.rx.buf = s.rx.buf ∧
      t.status = { s.status with lastCode := 0x00 } ∧
      t.responses = s.responses ++ [0x0000000000000000] ∧
      t.pending = s.pending

/-- R113, R224, R46: WR to an unmapped address or a read-only register is the fault F_ADDR, whatever the data. -/
def Obligations.WrToReadOnlyOrUnmappedFaults : Prop :=
  ∀ (a : RegAddr) (d : Word) (s : State), (∀ r : Reg, a = regAddr r → access r = .ro) →
    exec (.wr a d) s = .next { s with
      fault := s.fault ||| 0b00010
      status := { s.status with lastCode := 0x81 }
      responses := s.responses ++ [0x0000000000000081] }

/-- R44, R113: WR of a value outside the legal range of a writable register is the fault F_RANGE and writes nothing. -/
def Obligations.WrOutOfRangeFaults : Prop :=
  ∀ (r : Reg) (d : Word) (s : State), access r = .rw → legalValue r d = false →
    exec (.wr (regAddr r) d) s = .next { s with
      fault := s.fault ||| 0b00100
      status := { s.status with lastCode := 0x82 }
      responses := s.responses ++ [0x0000000000000082] }

/-- R44: the legal values on WR, by register; the registers that the rule gives a range are RW, "every other mapped
register is RO" and has no legal value. -/
def Obligations.LegalValuesByRegister : Prop :=
  (∀ d : Word, ∀ r ∈ [Reg.txCtrl, .txCmd, .txLen], (legalValue r d = true ↔ d.toNat ≤ 255)) ∧
  (∀ (d : Word) (k : Fin 255), legalValue (.txPay k) d = true ↔ d.toNat ≤ 255) ∧
  (∀ d : Word, ∀ r ∈ [Reg.az, .el, .errlim], legalValue r d = true) ∧
  (∀ (d : Word) (w : Fin 8), legalValue (.pvalid w) d = true) ∧
  (∀ d : Word, ∀ r ∈ [Reg.offX, .offY, .offZ],
    (legalValue r d = true ↔ -2 ^ 28 < d.toInt ∧ d.toInt < 2 ^ 28)) ∧
  (∀ (d : Word) (i : Dipole), ∀ r ∈ [Reg.posX i, .posY i, .posZ i],
    (legalValue r d = true ↔ -2 ^ 28 < d.toInt ∧ d.toInt < 2 ^ 28)) ∧
  (∀ (d : Word) (u : Unit16), legalValue (.corr u) d = true ↔ -2 ^ 27 < d.toInt ∧ d.toInt < 2 ^ 27) ∧
  (∀ d : Word, legalValue .sctl d = true ↔ d.toNat ≤ 7) ∧
  (∀ (d : Word) (i : Dipole), legalValue (.fine i) d = true ↔ -16 ≤ d.toInt ∧ d.toInt ≤ 16) ∧
  (∀ r : Reg, access r = .ro → ∀ d : Word, legalValue r d = false) ∧
  (∀ r : Reg, access r = .rw ↔
    r ∈ [Reg.txCtrl, .txCmd, .txLen, .az, .el, .errlim, .offX, .offY, .offZ, .sctl] ∨
    (∃ k : Fin 255, r = .txPay k) ∨ (∃ w : Fin 8, r = .pvalid w) ∨ (∃ u : Unit16, r = .corr u) ∨
    (∃ i : Dipole, r = .posX i ∨ r = .posY i ∨ r = .posZ i ∨ r = .fine i))

/-- R46, R49: the address of every register, by number; no two registers share an address, the register found at a
register's address is that register, and exactly the addresses that R49 lists as unmapped hold none. -/
def Obligations.RegisterMapIsExact : Prop :=
  (regAddr .id = 0x0000 ∧ regAddr .status = 0x0001 ∧ regAddr .fault = 0x0002) ∧
  (regAddr .cfgStart = 0x0008 ∧ regAddr .cfgEsc = 0x0009 ∧ regAddr .cfgMask = 0x000A ∧ regAddr .cfgFs = 0x000B ∧
    regAddr .cfgSs = 0x000C ∧ regAddr .cfgH = 0x000D ∧ regAddr .cfgCinv = 0x000E ∧ regAddr .cfgRxcap = 0x000F) ∧
  (regAddr .csSum8 = 0x0100 ∧ regAddr .csSum16 = 0x0101 ∧ regAddr .csCnt = 0x0102) ∧
  (regAddr .txCtrl = 0x0200 ∧ regAddr .txCmd = 0x0201 ∧ regAddr .txLen = 0x0202 ∧ regAddr .txrawLen = 0x0203 ∧
    (∀ k : Fin 255, (regAddr (.txPay k)).toNat = 0x0300 + k.val) ∧
    (∀ k : Fin 523, (regAddr (.txraw k)).toNat = 0x0400 + k.val)) ∧
  (regAddr .rxCtrl = 0x0800 ∧ regAddr .rxCmd = 0x0801 ∧ regAddr .rxLen = 0x0802 ∧ regAddr .rxFlags = 0x0803 ∧
    regAddr .rxCs8 = 0x0804 ∧ regAddr .rxCs16 = 0x0805 ∧ regAddr .rxbufLen = 0x0806 ∧ regAddr .rxIdle = 0x0807 ∧
    (∀ k : Fin 255, (regAddr (.rxPay k)).toNat = 0x0900 + k.val)) ∧
  (regAddr .az = 0x1000 ∧ regAddr .el = 0x1001 ∧ regAddr .offX = 0x1002 ∧ regAddr .offY = 0x1003 ∧
    regAddr .offZ = 0x1004 ∧ regAddr .errlim = 0x1005 ∧ regAddr .sctl = 0x1006 ∧ regAddr .disabled = 0x1008 ∧
    regAddr .maxerr = 0x1009 ∧ regAddr .sumsq0 = 0x100A ∧ regAddr .sumsq1 = 0x100B ∧ regAddr .sumsq2 = 0x100C ∧
    (∀ w : Fin 8, (regAddr (.pvalid w)).toNat = 0x1010 + w.val) ∧
    (∀ u : Unit16, (regAddr (.corr u)).toNat = 0x1020 + u.val ∧ (regAddr (.coarse u)).toNat = 0x1030 + u.val) ∧
    (∀ i : Dipole, (regAddr (.posX i)).toNat = 0x1100 + i.val ∧ (regAddr (.posY i)).toNat = 0x1200 + i.val ∧
      (regAddr (.posZ i)).toNat = 0x1300 + i.val ∧ (regAddr (.fine i)).toNat = 0x1400 + i.val ∧
      (regAddr (.err i)).toNat = 0x1500 + i.val)) ∧
  (∀ r : Reg, regAt (regAddr r) = some r) ∧
  (∀ (a : RegAddr) (r : Reg), regAt a = some r → a = regAddr r) ∧
  (∀ a : RegAddr, regAt a = none ↔
    (0x0003 ≤ a.toNat ∧ a.toNat ≤ 0x0007) ∨ (0x0010 ≤ a.toNat ∧ a.toNat ≤ 0x00FF) ∨
    (0x0103 ≤ a.toNat ∧ a.toNat ≤ 0x01FF) ∨ (0x0204 ≤ a.toNat ∧ a.toNat ≤ 0x02FF) ∨
    a.toNat = 0x03FF ∨ (0x060B ≤ a.toNat ∧ a.toNat ≤ 0x07FF) ∨
    (0x0808 ≤ a.toNat ∧ a.toNat ≤ 0x08FF) ∨ (0x09FF ≤ a.toNat ∧ a.toNat ≤ 0x0FFF) ∨
    a.toNat = 0x1007 ∨ (0x100D ≤ a.toNat ∧ a.toNat ≤ 0x100F) ∨
    (0x1018 ≤ a.toNat ∧ a.toNat ≤ 0x101F) ∨ (0x1040 ≤ a.toNat ∧ a.toNat ≤ 0x10FF) ∨
    0x1600 ≤ a.toNat)

/-- R23: the fields of STATUS as it is read. -/
def Obligations.StatusReadsItsFields : Prop :=
  ∀ (p : Params) (s : State),
    (readReg p s .status).extractLsb' 0 8 = s.status.lastCode ∧
    (readReg p s .status).getLsbD 8 = s.status.resValid ∧
    (readReg p s .status).getLsbD 9 = s.status.rxValid ∧
    (readReg p s .status).getLsbD 10 = s.status.txValid ∧
    (readReg p s .status).extractLsb' 11 21 = 0

/-- R114: RESET leaves every piece of state at its reset value and responds `(OK, 0)`. The lists of arrivals and of
answers are the model's own record and stay (log 5). -/
def Obligations.ResetCommandResets : Prop :=
  opcode .reset = 0xFF ∧
  ∀ s : State, exec .reset s =
    .next { State.reset with pending := s.pending, responses := s.responses ++ [0x0000000000000000] }

/-- R45: after reset ID reads its word, the CFG registers the parameters, every other register 0, and RXBUF is empty. -/
def Obligations.ResetValuesOfEveryRegister : Prop :=
  ∀ p : Params,
    readReg p State.reset .id = 0x45444131 ∧
    (readReg p State.reset .cfgStart).toNat = p.start.toNat ∧
    (readReg p State.reset .cfgEsc).toNat = p.esc.toNat ∧
    (readReg p State.reset .cfgMask).toNat = p.mask.toNat ∧
    (readReg p State.reset .cfgFs).toNat = p.fs ∧
    (readReg p State.reset .cfgSs).toNat = p.ss ∧
    (readReg p State.reset .cfgH).toNat = p.h ∧
    (readReg p State.reset .cfgCinv).toNat = p.cInv ∧
    (readReg p State.reset .cfgRxcap).toNat = p.rxbufCap ∧
    (∀ r : Reg, r ∉ [Reg.id, .cfgStart, .cfgEsc, .cfgMask, .cfgFs, .cfgSs, .cfgH, .cfgCinv, .cfgRxcap] →
      readReg p State.reset r = 0) ∧
    State.reset.rx.buf = []

/-! ### The checksum unit -/

/-- R120, R121: a sum of 255 or less is complemented, a sum above 255 is folded once and truncated to 8 bits. -/
def Obligations.Csum8FoldsOrComplements : Prop :=
  ∀ bs : List Byte,
    ((bs.map BitVec.toNat).sum ≤ 255 → (csum8 bs).toNat = 255 - (bs.map BitVec.toNat).sum) ∧
    (255 < (bs.map BitVec.toNat).sum →
      (csum8 bs).toNat = ((bs.map BitVec.toNat).sum % 256 + (bs.map BitVec.toNat).sum / 256) % 256)

/-- R122: the word sum counts a byte at an even place once and a byte at an odd place 256 times. -/
def Obligations.WordSumByPlace : Prop :=
  ∀ bs : List Byte,
    wsum16 bs = ∑ j ∈ Finset.range bs.length, (if j % 2 = 0 then 1 else 256) * (bs.getD j 0).toNat

/-- R123: the fold is repeated while the sum is above 65535, and the checksum is the complement of where it ends; for a
payload of at most 255 bytes two folds are enough. On the wire it is two bytes, the low one first. -/
def Obligations.Csum16FoldsEveryCarry : Prop :=
  (∀ n : Nat, n ≤ 0xFFFF → fold16 n = n) ∧
  (∀ n : Nat, 0xFFFF < n → fold16 n = fold16 (n % 65536 + n / 65536)) ∧
  (∀ bs : List Byte, fold16 (wsum16 bs) ≤ 0xFFFF ∧ (csum16 bs).toNat = 65535 - fold16 (wsum16 bs)) ∧
  (∀ bs : List Byte, bs.length ≤ 255 → foldOnce (foldOnce (wsum16 bs)) ≤ 0xFFFF) ∧
  (∀ (p : Params) (ctrl cmd : Byte) (pay : List Byte), pay ≠ [] → ∃ (l : List Byte) (lo hi : Byte),
    image p ctrl cmd pay = l ++ [lo, hi] ∧
    lo.toNat = (csum16 pay).toNat % 256 ∧ hi.toNat = (csum16 pay).toNat / 256)

/-- R125: CSCLR zeroes the three accumulators. -/
def Obligations.CsclrClears : Prop :=
  opcode .csclr = 0x10 ∧
  ∀ s : State, exec .csclr s = .next { s with
    csu := ⟨0, 0, 0⟩
    status := { s.status with lastCode := 0x00 }
    responses := s.responses ++ [0x0000000000000000] }

/-- R126: CSPUSH adds the byte to both sums, in the low or the high half of a word by the parity of the count, and
answers the new count; at 65535 bytes it is the fault F_CSOVF; and after a clear the accumulators hold the sums of the
bytes pushed, up to 65535 of them. -/
def Obligations.CspushAbsorbsOneByte : Prop :=
  opcode (.cspush 0) = 0x11 ∧
  (∀ (b : Byte) (s : State), s.csu.cnt ≠ 65535 → exec (.cspush b) s = .next { s with
    csu := {
      sum8 := s.csu.sum8 + b.setWidth 32
      sum16 := if s.csu.cnt.toNat % 2 = 0 then s.csu.sum16 + b.setWidth 32 else s.csu.sum16 + 256 * b.setWidth 32
      cnt := s.csu.cnt + 1 }
    status := { s.status with lastCode := 0x00 }
    responses := s.responses ++ [responseWord .ok ((s.csu.cnt + 1).setWidth 32)] }) ∧
  (∀ (b : Byte) (s : State), s.csu.cnt = 65535 → exec (.cspush b) s = .next { s with
    fault := s.fault ||| 0b10000
    status := { s.status with lastCode := 0x84 }
    responses := s.responses ++ [0x0000000000000084] }) ∧
  (∀ bs : List Byte, bs.length ≤ 65535 →
    (bs.foldl (fun c b => absorb b c) ⟨0, 0, 0⟩).sum8.toNat = byteSum bs ∧
    (bs.foldl (fun c b => absorb b c) ⟨0, 0, 0⟩).sum16.toNat = wsum16 bs ∧
    (bs.foldl (fun c b => absorb b c) ⟨0, 0, 0⟩).cnt.toNat = bs.length)

/-- R127: CSRD8 answers the folded or complemented sum, which is `csum8` of the bytes that were absorbed, and changes
nothing but LASTCODE. -/
def Obligations.Csrd8AnswersTheSum : Prop :=
  opcode .csrd8 = 0x12 ∧
  (∀ s : State, exec .csrd8 s = .next { s with
    status := { s.status with lastCode := 0x00 }
    responses := s.responses ++ [responseWord .ok (BitVec.ofNat 32
      (if s.csu.sum8.toNat > 255 then (s.csu.sum8.toNat % 256 + s.csu.sum8.toNat / 256) % 256
       else 255 - s.csu.sum8.toNat))] }) ∧
  (∀ (s : State) (bs : List Byte), s.csu.sum8.toNat = (bs.map BitVec.toNat).sum → exec .csrd8 s = .next { s with
    status := { s.status with lastCode := 0x00 }
    responses := s.responses ++ [responseWord .ok ((csum8 bs).setWidth 32)] })

/-- R128: CSRD16 answers the complement of the sum folded while it is above 65535, which is `csum16` of the bytes that
were absorbed: a 16-bit value whose complement is congruent to CS_SUM16 modulo 65535, and 65535 exactly when CS_SUM16
is 0. It changes nothing but LASTCODE. -/
def Obligations.Csrd16AnswersTheFoldedSum : Prop :=
  opcode .csrd16 = 0x13 ∧
  (∀ n : Nat, fold16 n = if n > 0xFFFF then fold16 (n % 65536 + n / 65536) else n) ∧
  (∀ s : State, ∃ v : Nat, v = 65535 - fold16 s.csu.sum16.toNat ∧ v ≤ 65535 ∧
    (65535 - v) % 65535 = s.csu.sum16.toNat % 65535 ∧ (v = 65535 ↔ s.csu.sum16 = 0) ∧
    exec .csrd16 s = .next { s with
      status := { s.status with lastCode := 0x00 }
      responses := s.responses ++ [responseWord .ok (BitVec.ofNat 32 v)] }) ∧
  (∀ (s : State) (bs : List Byte), s.csu.sum16.toNat = wsum16 bs → exec .csrd16 s = .next { s with
    status := { s.status with lastCode := 0x00 }
    responses := s.responses ++ [responseWord .ok ((csum16 bs).setWidth 32)] })

/-- R126 to R128, R15: a program that pushes the bytes of a sequence one by one into clear accumulators, run by the
machine's own step, ends with CSRD8 and CSRD16 answering `csum8` and `csum16` of the sequence. -/
def Obligations.PushedBytesAreChecksummed : Prop :=
  ∀ (s : State) (bs : List Byte), bs.length ≤ 65535 → s.csu = ⟨0, 0, 0⟩ →
    s.pending = bs.map (fun b => Arrival.command (encode (.cspush b))) →
    ∃ t u v : State,
      Host.Core.run Sys2Proof.core bs.length s = .next t ∧ t.pending = [] ∧
      exec .csrd8 t = .next u ∧ u.responses = t.responses ++ [responseWord .ok ((csum8 bs).setWidth 32)] ∧
      exec .csrd16 t = .next v ∧ v.responses = t.responses ++ [responseWord .ok ((csum16 bs).setWidth 32)]

/-! ### The frame codec -/

/-- R141, R86, R87: the unescaped image, byte by byte: the header, then for a long frame the payload and its checksum,
low byte first. -/
def Obligations.ImageHasTheFrameLayout : Prop :=
  ∀ (p : Params) (ctrl cmd : Byte) (pay : List Byte), pay.length ≤ 255 →
    (image p ctrl cmd pay).take 5 =
      [p.start, ctrl, cmd, BitVec.ofNat 8 pay.length, csum8 [ctrl, cmd, BitVec.ofNat 8 pay.length]] ∧
    (pay = [] → (image p ctrl cmd pay).length = 5) ∧
    (pay ≠ [] →
      (image p ctrl cmd pay).length = 7 + pay.length ∧
      ((image p ctrl cmd pay).drop 5).take pay.length = pay ∧
      ((image p ctrl cmd pay).getD (5 + pay.length) 0).toNat = (csum16 pay).toNat % 256 ∧
      ((image p ctrl cmd pay).getD (6 + pay.length) 0).toNat = (csum16 pay).toNat / 256)

/-- R143: the raw bytes of a frame contain START once, at index 0. -/
def Obligations.RawFrameHoldsStartOnce : Prop :=
  ∀ (p : Params) (ctrl cmd : Byte) (pay : List Byte), pay.length ≤ 255 →
    ∃ tail : List Byte, stuff p (image p ctrl cmd pay) = p.start :: tail ∧ p.start ∉ tail

/-- R144, R142, R91: FENC stores the raw frame of the staged packet, 5 to 523 bytes, in TXRAW with 0 beyond it, sets
TX_VALID and answers the length; nothing else changes. The raw bytes of an image are its first byte as it stands, then
for each later byte `b` the two bytes `ESC, b xor MASK` where `b` is START or ESC and the one byte `b` elsewhere. -/
def Obligations.FencStoresTheRawFrame : Prop :=
  opcode .fenc = 0x20 ∧
  (∀ s : State, ∃ (t : State) (raw : List Byte),
    raw = stuff Config.params (image Config.params s.tx.ctrl s.tx.cmd (s.tx.pay.toList.take s.tx.len.toNat)) ∧
    5 ≤ raw.length ∧ raw.length ≤ 523 ∧ (s.tx.len = 0 → raw.length ≤ 9) ∧
    exec .fenc s = .next t ∧
    (∀ k : Fin 523, t.tx.raw[k] = if k.val < raw.length then raw.getD k.val 0 else 0) ∧
    t.tx.rawLen.toNat = raw.length ∧
    t = { s with
      tx := { s.tx with raw := t.tx.raw, rawLen := t.tx.rawLen }
      status := { s.status with lastCode := 0x00, txValid := true }
      responses := s.responses ++ [responseWord .ok (BitVec.ofNat 32 raw.length)] }) ∧
  (∀ (p : Params) (b : Byte), stuff p [b] = [b]) ∧
  (∀ (p : Params) (u : List Byte) (b : Byte), u ≠ [] →
    stuff p (u ++ [b]) = stuff p u ++ (if b = p.start ∨ b = p.esc then [p.esc, b ^^^ p.mask] else [b])) ∧
  (∀ (p : Params) (b : Byte) (bs : List Byte),
    (stuff p (b :: bs)).length = (b :: bs).length + bs.countP (fun x => x == p.start || x == p.esc))

/-- R145: RXDATA appends the byte, zeroes RX_IDLE and answers the new length; when RXBUF holds RXBUF_CAP bytes it is
the fault F_RXOVF and nothing else changes, RX_IDLE included. -/
def Obligations.RxdataAppendsOneByte : Prop :=
  opcode (.rxdata 0) = 0x21 ∧
  (∀ (b : Byte) (s : State), s.rx.buf.length ≠ Config.params.rxbufCap → exec (.rxdata b) s = .next { s with
    rx := { s.rx with buf := s.rx.buf ++ [b], idle := 0 }
    status := { s.status with lastCode := 0x00 }
    responses := s.responses ++ [responseWord .ok (BitVec.ofNat 32 (s.rx.buf.length + 1))] }) ∧
  (∀ (b : Byte) (s : State), s.rx.buf.length = Config.params.rxbufCap → exec (.rxdata b) s = .next { s with
    fault := s.fault ||| 0b01000
    status := { s.status with lastCode := 0x83 }
    responses := s.responses ++ [0x0000000000000083] })

/-- R146: RXIDLE counts up to 2 and answers the count. -/
def Obligations.RxidleCountsToTwo : Prop :=
  opcode .rxidle = 0x22 ∧
  ∀ s : State, exec .rxidle s = .next { s with
    rx := { s.rx with idle := BitVec.ofNat 2 (min (s.rx.idle.toNat + 1) 2) }
    status := { s.status with lastCode := 0x00 }
    responses := s.responses ++ [responseWord .ok (BitVec.ofNat 32 (min (s.rx.idle.toNat + 1) 2))] }

/-- R154: RXFLUSH empties RXBUF, zeroes RX_IDLE, clears RX_VALID and answers how many bytes it discarded; the received
frame registers keep their values. -/
def Obligations.RxflushEmptiesTheBuffer : Prop :=
  opcode .rxflush = 0x24 ∧
  ∀ s : State, exec .rxflush s = .next { s with
    rx := { s.rx with buf := [], idle := 0 }
    status := { s.status with lastCode := 0x00, rxValid := false }
    responses := s.responses ++ [responseWord .ok (BitVec.ofNat 32 s.rx.buf.length)] }

/-- R150, R151, R155: with a whole frame in the buffer FDEC delivers it, OK when both checksums are good and CORRUPT
otherwise, keeps the bytes after it, zeroes RX_IDLE and sets RX_VALID; nothing else changes.
R148, R149, R157: what the scan takes for a whole frame. The raw bytes after the first are read in pieces `c`: an ESC and
the byte `c.1` after it, whatever that is (`c.2 = true`), which stand for `c.1 xor MASK`, or one byte `c.1` other than
ESC, a raw START included, which stands for itself. As soon as the bytes `u` read so far are as many as the length byte
`u[3]` asks for, whether or not the header checksum `u[4]` is good, the frame is whole and the rest is not looked at. -/
def Obligations.FdecDeliversAWholeFrame : Prop :=
  (∀ (p : Params) (b : Byte) (cs : List (Byte × Bool)) (raw u rest : List Byte),
    (∀ c ∈ cs, c.2 = false → c.1 ≠ p.esc) →
    raw = cs.flatMap (fun c => if c.2 then [p.esc, c.1] else [c.1]) →
    u = b :: cs.map (fun c => if c.2 then c.1 ^^^ p.mask else c.1) →
    5 ≤ u.length → u.length = (if u.getD 3 0 = 0 then 5 else 7 + (u.getD 3 0).toNat) →
    scan p (b :: (raw ++ rest)) = ⟨u, 1 + raw.length, true⟩) ∧
  ∀ (s : State) (b1 u : List Byte) (n : Nat) (j : Nat),
    b1 = s.rx.buf.dropWhile (fun b => b != Config.params.start) →
    scan Config.params b1 = ⟨u, j, true⟩ → n = (u.getD 3 0).toNat →
    ∃ (t : State) (hdrOk payOk : Bool), exec .fdec s = .next t ∧
      (hdrOk = true ↔ u.getD 4 0 = csum8 [u.getD 1 0, u.getD 2 0, u.getD 3 0]) ∧
      (payOk = true ↔ n = 0 ∨ t.rx.cs16 = csum16 ((u.drop 5).take n)) ∧
      t.rx.buf = b1.drop j ∧ t.rx.idle = 0 ∧
      t.rx.ctrl = u.getD 1 0 ∧ t.rx.cmd = u.getD 2 0 ∧ t.rx.len = u.getD 3 0 ∧ t.rx.cs8 = u.getD 4 0 ∧
      t.rx.cs16.toNat = (if n = 0 then 0 else (u.getD (5 + n) 0).toNat + 256 * (u.getD (6 + n) 0).toNat) ∧
      (∀ k : Fin 255, t.rx.pay[k] = if k.val < n then u.getD (5 + k.val) 0 else 0) ∧
      t.rx.flags.getLsbD 0 = hdrOk ∧ t.rx.flags.getLsbD 1 = payOk ∧ t.rx.flags.getLsbD 2 = (n != 0) ∧
      t = { s with
        rx := t.rx
        status := { s.status with
          rxValid := true
          lastCode := if hdrOk && payOk then 0x00 else 0x03 }
        responses := s.responses ++
          [responseWord (if hdrOk && payOk then .ok else .corrupt) (t.rx.flags.setWidth 32)] }

/-- R150, R152, R153: without a whole frame FDEC times out after two idle reads, emptying the buffer, and otherwise
answers INCOMPLETE and keeps the bytes from the first START on; the received frame registers keep their values.
R148, R149, R157: what the scan takes for less than a whole frame, with pieces `c` as in FdecDeliversAWholeFrame: nothing
at all, or fewer bytes than five, or than the length byte asks for; an ESC that is the last byte is not taken. -/
def Obligations.FdecTimesOutOrWaits : Prop :=
  (∀ p : Params, scan p [] = ⟨[], 0, false⟩) ∧
  (∀ (p : Params) (b : Byte) (cs : List (Byte × Bool)) (raw u : List Byte),
    (∀ c ∈ cs, c.2 = false → c.1 ≠ p.esc) →
    raw = cs.flatMap (fun c => if c.2 then [p.esc, c.1] else [c.1]) →
    u = b :: cs.map (fun c => if c.2 then c.1 ^^^ p.mask else c.1) →
    (u.length < 5 ∨ (u.getD 3 0 ≠ 0 ∧ u.length < 7 + (u.getD 3 0).toNat)) →
    scan p (b :: raw) = ⟨u, 1 + raw.length, false⟩ ∧
    scan p (b :: (raw ++ [p.esc])) = ⟨u, 1 + raw.length, false⟩) ∧
  ∀ (s : State) (b1 : List Byte), b1 = s.rx.buf.dropWhile (fun b => b != Config.params.start) →
    (scan Config.params b1).complete = false →
    (s.rx.idle = 2 → exec .fdec s = .next { s with
      rx := { s.rx with buf := [], idle := 0 }
      status := { s.status with lastCode := 0x02, rxValid := false }
      responses := s.responses ++ [0x0000000000000002] }) ∧
    (s.rx.idle ≠ 2 → exec .fdec s = .next { s with
      rx := { s.rx with buf := b1 }
      status := { s.status with lastCode := 0x01, rxValid := false }
      responses := s.responses ++ [0x0000000000000001] })

/-- R156: the round trip. A frame of any payload of 0 to 255 bytes, behind bytes without START and before any bytes,
is delivered as it was staged, with both checksums good, and the bytes after it are left. -/
def Obligations.EncodedFrameDecodesToItself : Prop :=
  ∀ (s : State) (ctrl cmd : Byte) (pay g rest : List Byte), pay.length ≤ 255 → Config.params.start ∉ g →
    s.rx.buf = g ++ stuff Config.params (image Config.params ctrl cmd pay) ++ rest →
    ∃ t : State, exec .fdec s = .next t ∧
      t.status.lastCode = 0x00 ∧ t.status.rxValid = true ∧
      t.rx.ctrl = ctrl ∧ t.rx.cmd = cmd ∧ t.rx.len.toNat = pay.length ∧
      t.rx.pay.toList.take pay.length = pay ∧
      t.rx.flags.getLsbD 0 = true ∧ t.rx.flags.getLsbD 1 = true ∧
      t.rx.buf = rest

/-- R158: a buffer that begins with START and holds 523 bytes holds a whole frame, so an FDEC on a full RXBUF always
frees at least one byte of room, and the RXDATA after it is no fault. -/
def Obligations.FullBufferAlwaysDrains : Prop :=
  (∀ (p : Params) (rest : List Byte), 522 ≤ rest.length → (scan p (p.start :: rest)).complete = true) ∧
  (∀ s : State, s.rx.buf.length = Config.params.rxbufCap →
    ∃ t : State, exec .fdec s = .next t ∧ t.rx.buf.length < Config.params.rxbufCap ∧
      ∀ b : Byte, ∃ u : State, exec (.rxdata b) t = .next u ∧ u.rx.buf = t.rx.buf ++ [b] ∧ u.fault = t.fault)

/-- R155, R147, R152: whatever FDEC answers, what it leaves in RXBUF is the end of what was there: bytes are removed
from the front only, none is changed, duplicated or put out of order. -/
def Obligations.FdecOnlyRemovesFromTheFront : Prop :=
  ∀ s : State, ∃ (t : State) (taken : List Byte), exec .fdec s = .next t ∧ s.rx.buf = taken ++ t.rx.buf

/-- R258: an FDEC that answers INCOMPLETE and is repeated at once answers INCOMPLETE again and changes nothing. -/
def Obligations.RepeatedIncompleteChangesNothing : Prop :=
  ∀ s t : State, exec .fdec s = .next t → t.status.lastCode = 0x01 →
    exec .fdec t = .next { t with responses := t.responses ++ [0x0000000000000001] }

/-! ### The delay solver -/

/-- R11: `rnd` is a nearest integer, a tie goes away from zero, and it is odd. -/
def Obligations.RndIsNearestTieAway : Prop :=
  ∀ n d : Int, 0 < d →
    2 * |n - d * rnd n d| ≤ d ∧
    (2 * |n - d * rnd n d| = d → |n| < |d * rnd n d|) ∧
    rnd (-n) d = -rnd n d

/-- R173, R172, R174: the ideal delay, from the sine and cosine of the azimuth and of the zenith angle, in exact
integers with one rounding. -/
def Obligations.IdealDelayFormula : Prop :=
  ∀ (p : Params) (d : SolverIn) (i : Dipole) (u : Unit16) (sa ca sz cz dx dy dz : Int),
    u.val = i.val / 16 →
    (sa, ca) = p.sincos d.az.toInt → (sz, cz) = p.sincos (90 * 2 ^ 16 - d.el.toInt) →
    dx = d.posX[i].toInt - d.offX.toInt → dy = d.posY[i].toInt - d.offY.toInt →
    dz = d.posZ[i].toInt - d.offZ.toInt →
    idealDelay p d i = rnd (((dx * sa + dy * ca) * sz + dz * cz * 2 ^ 30) * p.cInv) (2 ^ 96) + d.corr[u].toInt

/-- R194: at elevation 90° the x and y terms vanish whatever the azimuth: only the z term and the correction remain,
for a dipole at the height of the offset only the correction; and the residual of a dipole whose fine delay was not
clamped is at most half a first-stage step. -/
def Obligations.ZenithDelayIsTheHeightTerm : Prop :=
  ∀ (p : Params) (d : SolverIn) (i : Dipole), d.el.toInt = 90 * 2 ^ 16 →
    idealDelay p d i =
      rnd ((d.posZ[i].toInt - d.offZ.toInt) * p.cInv) (2 ^ 36) + d.corr[unitOf i].toInt ∧
    (d.posZ[i].toInt = d.offZ.toInt → idealDelay p d i = d.corr[unitOf i].toInt) ∧
    (solveFine p d i = rnd (idealDelay p d i - solveCoarse p d (unitOf i) * p.ss) p.fs →
      2 * |solveResidual p d i| ≤ p.fs)

/-- R177: the naive candidate: the sum of the ideal delays of the unit's valid dipoles over their number times the
step, rounded and clamped to LO..HI. -/
def Obligations.NaiveCandidateIsTheClampedMean : Prop :=
  ∀ (p : Params) (d : SolverIn) (u : Unit16) (v : Finset Dipole),
    v = Finset.univ.filter (fun i => unitOf i = u ∧ isValid d i = true) → v.Nonempty →
    naiveCoarse p d u =
      max (-128 + (p.h : Int)) (min (127 - (p.h : Int)) (rnd (∑ i ∈ v, idealDelay p d i) (v.card * p.ss)))

/-- R179: the cost of a candidate in SOLVE: how many trial fine delays are out of range, and the squares of the
residuals of the others. -/
def Obligations.SolveCostCountsAndSquares : Prop :=
  ∀ (p : Params) (d : SolverIn) (u : Unit16) (c : Int) (v out : Finset Dipole) (f : Dipole → Int),
    v = Finset.univ.filter (fun i => unitOf i = u ∧ isValid d i = true) →
    (∀ i, f i = rnd (idealDelay p d i - c * p.ss) p.fs) →
    out = v.filter (fun i => f i < -16 ∨ 15 < f i) →
    solveCost p d u c =
      (out.card, ∑ i ∈ v \ out, (idealDelay p d i - (f i * p.fs + c * p.ss)) ^ 2)

/-- R187: the cost of a candidate in REFINE: the squares of the residuals against the existing fine delays, sentinels
left out. -/
def Obligations.RefineCostLeavesSentinelsOut : Prop :=
  ∀ (p : Params) (d : SolverIn) (fine : Vector Word 256) (u : Unit16) (c : Int) (v : Finset Dipole),
    v = Finset.univ.filter (fun i => unitOf i = u ∧ isValid d i = true ∧ (fine[i]).toInt ≠ 16) →
    refineCost p d fine u c = (0, ∑ i ∈ v, (idealDelay p d i - ((fine[i]).toInt * p.fs + c * p.ss)) ^ 2)

/-- R178, R180, R190: in SOLVE and in REFINE the chosen coarse delay is a candidate, none costs less, every lower candidate
costs more, it is in LO..HI, and with OPT = 0 it is the naive candidate; the candidates with OPT = 1 are the integers
within 6 of the naive one and within LO..HI, and the naive one is among them. -/
def Obligations.SelectionIsTheLowestLeastCost : Prop :=
  ∀ (p : Params) (d : SolverIn) (fine : Vector Word 256) (u : Unit16) (cost : Int → Cost) (n0 c : Int) (cs : Set Int),
    n0 = naiveCoarse p d u →
    ((cost = solveCost p d u ∧ c = solveCoarse p d u) ∨ (cost = refineCost p d fine u ∧ c = refineCoarse p d fine u)) →
    cs = (if optBit d then
        { x | n0 - 6 ≤ x ∧ -128 + (p.h : Int) ≤ x ∧ x ≤ n0 + 6 ∧ x ≤ 127 - (p.h : Int) }
      else { n0 }) →
    n0 ∈ cs ∧ c ∈ cs ∧ -128 + (p.h : Int) ≤ c ∧ c ≤ 127 - (p.h : Int) ∧
    (∀ x ∈ cs, (cost c).1 < (cost x).1 ∨ ((cost c).1 = (cost x).1 ∧ (cost c).2 ≤ (cost x).2)) ∧
    (∀ x ∈ cs, x < c → (cost c).1 < (cost x).1 ∨ ((cost c).1 = (cost x).1 ∧ (cost c).2 < (cost x).2))

/-- R181, R182: the fine delay from the chosen coarse delay, clamped when CLIP = 1; the residual; and, where nothing
was clamped, the residual is at most half a first-stage step. -/
def Obligations.FineDelayAndResidual : Prop :=
  ∀ (p : Params) (d : SolverIn) (i : Dipole) (c f : Int),
    c = solveCoarse p d (unitOf i) → f = rnd (idealDelay p d i - c * p.ss) p.fs →
    (clipBit d = true → solveFine p d i = max (-16) (min 15 f)) ∧
    (clipBit d = false → solveFine p d i = f) ∧
    solveResidual p d i = idealDelay p d i - (solveFine p d i * p.fs + c * p.ss) ∧
    (solveFine p d i = f → 2 * |solveResidual p d i| ≤ p.fs)

/-- R192: with CLIP = 1 a fine delay before marking is in -16..15, so what SOLVE commits is the sentinel 16 exactly for
a marked dipole: not strict and with a residual beyond the limit. -/
def Obligations.SentinelComesOnlyFromMarking : Prop :=
  ∀ (p : Params) (d : SolverIn) (i : Dipole), clipBit d = true →
    -16 ≤ solveFine p d i ∧ solveFine p d i ≤ 15 ∧
    (committedFine p d i = 16 ↔ strictBit d = false ∧ d.errlim.toNat < (solveResidual p d i).natAbs)

/-- R171, R185: SOLVE and REFINE with an elevation outside 0° to 90° end E_ZENITH; with a good elevation and an empty
position map they end E_EMPTY; both clear RES_VALID and write no output register. -/
def Obligations.SolverPrechecksFail : Prop :=
  ∀ (i : Instr) (s : State), i = .solve ∨ i = .refine →
    ((s.din.el.toInt < 0 ∨ 90 * 2 ^ 16 < s.din.el.toInt) → exec i s = .next { s with
      status := { s.status with lastCode := 0x10, resValid := false }
      responses := s.responses ++ [0x0000000000000010] }) ∧
    (0 ≤ s.din.el.toInt → s.din.el.toInt ≤ 90 * 2 ^ 16 → (∀ w : Fin 8, s.din.pvalid[w] = 0) → exec i s = .next { s with
      status := { s.status with lastCode := 0x11, resValid := false }
      responses := s.responses ++ [0x0000000000000011] })

/-- R183, R185, R188: with STRICT = 1 and a valid dipole beyond the limit, SOLVE and REFINE end E_ERRLIM, clear
RES_VALID and write no output register. -/
def Obligations.StrictSolveAborts : Prop :=
  ∀ (s : State) (i : Dipole), 0 ≤ s.din.el.toInt → s.din.el.toInt ≤ 90 * 2 ^ 16 → strictBit s.din = true →
    isValid s.din i = true →
    (s.din.errlim.toNat < (solveResidual Config.params s.din i).natAbs → exec .solve s = .next { s with
      status := { s.status with lastCode := 0x12, resValid := false }
      responses := s.responses ++ [0x0000000000000012] }) ∧
    (s.din.errlim.toNat < (refineResidual Config.params s.din s.fine i).natAbs → exec .refine s = .next { s with
      status := { s.status with lastCode := 0x12, resValid := false }
      responses := s.responses ++ [0x0000000000000012] })

/-- R186, R183 to R185, R175: a SOLVE that passes its checks commits: FINE of the valid dipoles, the sentinel where
marked; COARSE of the units with a valid dipole; ERR of every dipole; the diagnostics; RES_VALID; and it answers the
number of marked dipoles. Nothing else changes. -/
def Obligations.SolveCommitsItsTable : Prop :=
  ∀ (s : State) (r : Dipole → Int) (v marked : Finset Dipole),
    0 ≤ s.din.el.toInt → s.din.el.toInt ≤ 90 * 2 ^ 16 →
    v = Finset.univ.filter (fun i => isValid s.din i = true) → v.Nonempty →
    (∀ i, r i = solveResidual Config.params s.din i) →
    (strictBit s.din = true → ∀ i ∈ v, (r i).natAbs ≤ s.din.errlim.toNat) →
    marked = v.filter (fun i => strictBit s.din = false ∧ clipBit s.din = true ∧ s.din.errlim.toNat < (r i).natAbs) →
    ∃ t : State, exec .solve s = .next t ∧
      (∀ i : Dipole, t.fine[i] = if i ∈ marked then 16
        else if i ∈ v then to32 (solveFine Config.params s.din i) else s.fine[i]) ∧
      (∀ u : Unit16, t.dout.coarse[u] = if (∃ i ∈ v, unitOf i = u) then to32 (solveCoarse Config.params s.din u)
        else s.dout.coarse[u]) ∧
      (∀ i : Dipole, t.dout.err[i] = if i ∈ v then to32 (r i) else 0) ∧
      t.dout.disabled.toNat = marked.card ∧
      (∃ m : Nat, t.dout.maxerr = BitVec.ofNat 32 m ∧ (∀ i ∈ v, (r i).natAbs ≤ m) ∧ (∃ i ∈ v, (r i).natAbs = m)) ∧
      sumsqValue t.dout = (∑ i ∈ v, (r i).natAbs ^ 2) % 2 ^ 96 ∧
      t = { s with
        fine := t.fine
        dout := t.dout
        status := { s.status with lastCode := 0x00, resValid := true }
        responses := s.responses ++ [responseWord .ok (BitVec.ofNat 32 marked.card)] }

/-- R189, R188, R185: a REFINE that passes its checks commits COARSE, ERR (0 for a dipole at the sentinel) and the
diagnostics, and answers the number of valid dipoles at the sentinel. FINE is not written, nothing is marked. -/
def Obligations.RefineCommitsWithoutTouchingFine : Prop :=
  ∀ (s : State) (r : Dipole → Int) (v : Finset Dipole),
    0 ≤ s.din.el.toInt → s.din.el.toInt ≤ 90 * 2 ^ 16 →
    v = Finset.univ.filter (fun i => isValid s.din i = true) → v.Nonempty →
    (∀ i, r i = if (s.fine[i]).toInt = 16 then 0 else idealDelay Config.params s.din i -
      ((s.fine[i]).toInt * Config.params.fs + refineCoarse Config.params s.din s.fine (unitOf i) * Config.params.ss)) →
    (strictBit s.din = true → ∀ i ∈ v, (r i).natAbs ≤ s.din.errlim.toNat) →
    ∃ t : State, exec .refine s = .next t ∧
      (∀ u : Unit16, t.dout.coarse[u] =
        if (∃ i ∈ v, unitOf i = u) then to32 (refineCoarse Config.params s.din s.fine u) else s.dout.coarse[u]) ∧
      (∀ i : Dipole, t.dout.err[i] = if i ∈ v then to32 (r i) else 0) ∧
      t.dout.disabled.toNat = (v.filter (fun i => (s.fine[i]).toInt = 16)).card ∧
      (∃ m : Nat, t.dout.maxerr = BitVec.ofNat 32 m ∧ (∀ i ∈ v, (r i).natAbs ≤ m) ∧ (∃ i ∈ v, (r i).natAbs = m)) ∧
      sumsqValue t.dout = (∑ i ∈ v, (r i).natAbs ^ 2) % 2 ^ 96 ∧
      t = { s with
        dout := t.dout
        status := { s.status with lastCode := 0x00, resValid := true }
        responses := s.responses ++
          [responseWord .ok (BitVec.ofNat 32 (v.filter (fun i => (s.fine[i]).toInt = 16)).card)] }

/-- R176: with inputs in their legal ranges no value of a SOLVE wraps: the ideal delay is below 2^28, a fine delay
below 2^29, a residual below 2^30 in magnitude, the sum of squares below 2^68, and the sum of squares in the cost of a
candidate below 2^64; so every register reads back as the integer that was computed. -/
def Obligations.SolveValuesFitTheirRegisters : Prop :=
  ∀ (p : Params) (d : SolverIn), InputsLegal d → 0 ≤ d.el.toInt → d.el.toInt ≤ 90 * 2 ^ 16 →
    (∀ i : Dipole, |idealDelay p d i| < 2 ^ 28 ∧ |solveFine p d i| < 2 ^ 29 ∧ |solveResidual p d i| < 2 ^ 30 ∧
      |committedFine p d i * (p.fs : Int)| < 2 ^ 28 + 2 ^ 24 ∧
      (to32 (committedFine p d i)).toInt = committedFine p d i ∧
      (to32 (solveResidual p d i)).toInt = solveResidual p d i) ∧
    (∀ u : Unit16, (to32 (solveCoarse p d u)).toInt = solveCoarse p d u) ∧
    (∑ i : Dipole, (solveResidual p d i).natAbs ^ 2) < 2 ^ 68 ∧
    (∀ (u : Unit16) (c : Int), -128 + (p.h : Int) ≤ c → c ≤ 127 - (p.h : Int) →
      (solveCost p d u c).1 ≤ 16 ∧ 0 ≤ (solveCost p d u c).2 ∧ (solveCost p d u c).2 < 2 ^ 64)

/-- R176 for REFINE: with legal inputs and a bounded table of fine delays its residuals are below 2^30, their squares sum
to less than 2^68, and those in the cost of a candidate to less than 2^64. -/
def Obligations.RefineValuesFitTheirRegisters : Prop :=
  ∀ (p : Params) (d : SolverIn) (fine : Vector Word 256), InputsLegal d → FineBounded p fine →
    0 ≤ d.el.toInt → d.el.toInt ≤ 90 * 2 ^ 16 →
    (∀ i : Dipole, |refineResidual p d fine i| < 2 ^ 30 ∧
      (to32 (refineResidual p d fine i)).toInt = refineResidual p d fine i) ∧
    (∑ i : Dipole, (refineResidual p d fine i).natAbs ^ 2) < 2 ^ 68 ∧
    (∀ (u : Unit16) (c : Int), -128 + (p.h : Int) ≤ c → c ≤ 127 - (p.h : Int) →
      0 ≤ (refineCost p d fine u c).2 ∧ (refineCost p d fine u c).2 < 2 ^ 64)

/-- R191: purity. Two instances with the same inputs, whatever else they hold, get from SOLVE the same response, and,
where the solve commits, the same FINE of every valid dipole, the same COARSE of every unit with one, the same ERR and
the same diagnostics. With the same inputs and the same FINE they get from REFINE the same response, and, where it
commits, the same COARSE, ERR and diagnostics. -/
def Obligations.SolveDependsOnInputsOnly : Prop :=
  (∀ s s' : State, s.din = s'.din → ∃ (t t' : State) (c : Code) (v : Word),
    exec .solve s = .next t ∧ exec .solve s' = .next t' ∧
    t.responses = s.responses ++ [responseWord c v] ∧ t'.responses = s'.responses ++ [responseWord c v] ∧
    t.status.resValid = t'.status.resValid ∧ t.din = s.din ∧ t'.din = s'.din ∧
    (t.status.resValid = true →
      (∀ i : Dipole, isValid s.din i = true → t.fine[i] = t'.fine[i]) ∧
      (∀ i : Dipole, isValid s.din i = true → t.dout.coarse[unitOf i] = t'.dout.coarse[unitOf i]) ∧
      t.dout.err = t'.dout.err ∧ t.dout.disabled = t'.dout.disabled ∧ t.dout.maxerr = t'.dout.maxerr ∧
      sumsqValue t.dout = sumsqValue t'.dout)) ∧
  (∀ s s' : State, s.din = s'.din → s.fine = s'.fine → ∃ (t t' : State) (c : Code) (v : Word),
    exec .refine s = .next t ∧ exec .refine s' = .next t' ∧
    t.responses = s.responses ++ [responseWord c v] ∧ t'.responses = s'.responses ++ [responseWord c v] ∧
    t.status.resValid = t'.status.resValid ∧ t.din = s.din ∧ t'.din = s'.din ∧ t.fine = s.fine ∧ t'.fine = s'.fine ∧
    (t.status.resValid = true →
      (∀ i : Dipole, isValid s.din i = true → t.dout.coarse[unitOf i] = t'.dout.coarse[unitOf i]) ∧
      t.dout.err = t'.dout.err ∧ t.dout.disabled = t'.dout.disabled ∧ t.dout.maxerr = t'.dout.maxerr ∧
      sumsqValue t.dout = sumsqValue t'.dout))

/-! ### The whole machine -/

/-- R129, R2: the units share nothing but the port and STATUS and FAULT: a command of one unit leaves the registers of
the other two as they are. -/
def Obligations.UnitsDoNotDisturbEachOther : Prop :=
  ∀ (s : State) (b : Byte),
    (∀ i ∈ [Instr.fenc, .rxdata b, .rxidle, .fdec, .rxflush], ∃ t, exec i s = .next t ∧
      t.csu = s.csu ∧ t.din = s.din ∧ t.fine = s.fine ∧ t.dout = s.dout) ∧
    (∀ i ∈ [Instr.csclr, .cspush b, .csrd8, .csrd16], ∃ t, exec i s = .next t ∧
      t.tx = s.tx ∧ t.rx = s.rx ∧ t.din = s.din ∧ t.fine = s.fine ∧ t.dout = s.dout) ∧
    (∀ i ∈ [Instr.solve, .refine], ∃ t, exec i s = .next t ∧
      t.csu = s.csu ∧ t.tx = s.tx ∧ t.rx = s.rx ∧ t.din = s.din)

/-- The invariant of Safety.lean holds in the reset state (R45). -/
def Obligations.ResetStateMeetsTheInvariant : Prop := Inv Config.params State.reset

/-- Every step keeps the invariant of Safety.lean (R20, R26, R28 to R32, R38 to R41, R44, R176, R221), in every state
that meets it, reached by a run or not. -/
def Obligations.StepKeepsTheInvariant : Prop :=
  ∀ s t : State, Inv Config.params s → step s = .next t → Inv Config.params t
end

