-- ==== Sys2Proof/Laws/Decode.lean ====
section
/-! SUPPORT. The fields of a packed command word, and the word of its fields (30_encoding.md R80). -/

namespace Sys2Proof.Laws

theorem opField_packWord (d : Word) (a : RegAddr) (i : Byte) (o : BitVec 8) :
    opField (packWord d a i o) = o := by
  apply BitVec.eq_of_getLsbD_eq
  intro k hk
  simp only [opField, packWord, BitVec.getLsbD_extractLsb', BitVec.getLsbD_append, hk, decide_true, Bool.true_and]
  simp [hk]

theorem imm8Field_packWord (d : Word) (a : RegAddr) (i : Byte) (o : BitVec 8) :
    imm8Field (packWord d a i o) = i := by
  apply BitVec.eq_of_getLsbD_eq
  intro k hk
  simp only [imm8Field, packWord, BitVec.getLsbD_extractLsb', BitVec.getLsbD_append, hk, decide_true, Bool.true_and]
  simp [hk]

theorem addrField_packWord (d : Word) (a : RegAddr) (i : Byte) (o : BitVec 8) :
    addrField (packWord d a i o) = a := by
  apply BitVec.eq_of_getLsbD_eq
  intro k hk
  simp only [addrField, packWord, BitVec.getLsbD_extractLsb', BitVec.getLsbD_append, hk, decide_true, Bool.true_and]
  have h1 : ¬ (16 + k < 8) := by omega
  have h2 : ¬ (16 + k - 8 < 8) := by omega
  have h3 : 16 + k - 8 - 8 = k := by omega
  simp [h1, h2, h3, hk]

theorem dataField_packWord (d : Word) (a : RegAddr) (i : Byte) (o : BitVec 8) :
    dataField (packWord d a i o) = d := by
  apply BitVec.eq_of_getLsbD_eq
  intro k hk
  simp only [dataField, packWord, BitVec.getLsbD_extractLsb', BitVec.getLsbD_append, hk, decide_true, Bool.true_and]
  have h1 : ¬ (32 + k < 8) := by omega
  have h2 : ¬ (32 + k - 8 < 8) := by omega
  have h3 : ¬ (32 + k - 8 - 8 < 16) := by omega
  have h4 : 32 + k - 8 - 8 - 16 = k := by omega
  simp [h1, h2, h3, h4]

/-- A word is what its four fields pack to. -/
theorem packWord_fields (cw : PortWord) :
    packWord (dataField cw) (addrField cw) (imm8Field cw) (opField cw) = cw := by
  apply BitVec.eq_of_getLsbD_eq
  intro k hk
  simp only [packWord, dataField, addrField, imm8Field, opField, BitVec.getLsbD_append, BitVec.getLsbD_extractLsb']
  by_cases h1 : k < 8
  · simp [h1]
  · by_cases h2 : k - 8 < 8
    · have e : 8 + (k - 8) = k := by omega
      simp [h1, h2, e]
    · by_cases h3 : k - 8 - 8 < 16
      · have e : 16 + (k - 8 - 8) = k := by omega
        simp [h1, h2, h3, e]
      · have e : 32 + (k - 8 - 8 - 16) = k := by omega
        have h4 : k - 8 - 8 - 16 < 32 := by omega
        simp [h1, h2, h3, h4, e]

end Sys2Proof.Laws
end

