-- ==== Sys2Proof/Laws/State.lean ====
section
/-! SUPPORT. The small lemmas of the state's updates: one per field and update, so that no proof unfolds an update. -/

namespace Sys2Proof.Laws

open Sys2Proof.Machine

/-! ### Updates -/

/-! #### setLastCode -/

@[simp] theorem setLastCode_fault (s : State) (c : Code) : (s.setLastCode c).fault = s.fault := rfl
@[simp] theorem setLastCode_csu (s : State) (c : Code) : (s.setLastCode c).csu = s.csu := rfl
@[simp] theorem setLastCode_tx (s : State) (c : Code) : (s.setLastCode c).tx = s.tx := rfl
@[simp] theorem setLastCode_rx (s : State) (c : Code) : (s.setLastCode c).rx = s.rx := rfl
@[simp] theorem setLastCode_din (s : State) (c : Code) : (s.setLastCode c).din = s.din := rfl
@[simp] theorem setLastCode_fine (s : State) (c : Code) : (s.setLastCode c).fine = s.fine := rfl
@[simp] theorem setLastCode_dout (s : State) (c : Code) : (s.setLastCode c).dout = s.dout := rfl
@[simp] theorem setLastCode_pending (s : State) (c : Code) : (s.setLastCode c).pending = s.pending := rfl
@[simp] theorem setLastCode_responses (s : State) (c : Code) : (s.setLastCode c).responses = s.responses := rfl
@[simp] theorem setLastCode_status_lastCode (s : State) (c : Code) : (s.setLastCode c).status.lastCode = c.bits := rfl
@[simp] theorem setLastCode_status_resValid (s : State) (c : Code) : (s.setLastCode c).status.resValid = s.status.resValid := rfl
@[simp] theorem setLastCode_status_rxValid (s : State) (c : Code) : (s.setLastCode c).status.rxValid = s.status.rxValid := rfl
@[simp] theorem setLastCode_status_txValid (s : State) (c : Code) : (s.setLastCode c).status.txValid = s.status.txValid := rfl

/-! #### setResValid -/

@[simp] theorem setResValid_fault (s : State) (b : Bool) : (s.setResValid b).fault = s.fault := rfl
@[simp] theorem setResValid_csu (s : State) (b : Bool) : (s.setResValid b).csu = s.csu := rfl
@[simp] theorem setResValid_tx (s : State) (b : Bool) : (s.setResValid b).tx = s.tx := rfl
@[simp] theorem setResValid_rx (s : State) (b : Bool) : (s.setResValid b).rx = s.rx := rfl
@[simp] theorem setResValid_din (s : State) (b : Bool) : (s.setResValid b).din = s.din := rfl
@[simp] theorem setResValid_fine (s : State) (b : Bool) : (s.setResValid b).fine = s.fine := rfl
@[simp] theorem setResValid_dout (s : State) (b : Bool) : (s.setResValid b).dout = s.dout := rfl
@[simp] theorem setResValid_pending (s : State) (b : Bool) : (s.setResValid b).pending = s.pending := rfl
@[simp] theorem setResValid_responses (s : State) (b : Bool) : (s.setResValid b).responses = s.responses := rfl
@[simp] theorem setResValid_status_lastCode (s : State) (b : Bool) : (s.setResValid b).status.lastCode = s.status.lastCode := rfl
@[simp] theorem setResValid_status_resValid (s : State) (b : Bool) : (s.setResValid b).status.resValid = b := rfl
@[simp] theorem setResValid_status_rxValid (s : State) (b : Bool) : (s.setResValid b).status.rxValid = s.status.rxValid := rfl
@[simp] theorem setResValid_status_txValid (s : State) (b : Bool) : (s.setResValid b).status.txValid = s.status.txValid := rfl

/-! #### setRxValid -/

@[simp] theorem setRxValid_fault (s : State) (b : Bool) : (s.setRxValid b).fault = s.fault := rfl
@[simp] theorem setRxValid_csu (s : State) (b : Bool) : (s.setRxValid b).csu = s.csu := rfl
@[simp] theorem setRxValid_tx (s : State) (b : Bool) : (s.setRxValid b).tx = s.tx := rfl
@[simp] theorem setRxValid_rx (s : State) (b : Bool) : (s.setRxValid b).rx = s.rx := rfl
@[simp] theorem setRxValid_din (s : State) (b : Bool) : (s.setRxValid b).din = s.din := rfl
@[simp] theorem setRxValid_fine (s : State) (b : Bool) : (s.setRxValid b).fine = s.fine := rfl
@[simp] theorem setRxValid_dout (s : State) (b : Bool) : (s.setRxValid b).dout = s.dout := rfl
@[simp] theorem setRxValid_pending (s : State) (b : Bool) : (s.setRxValid b).pending = s.pending := rfl
@[simp] theorem setRxValid_responses (s : State) (b : Bool) : (s.setRxValid b).responses = s.responses := rfl
@[simp] theorem setRxValid_status_lastCode (s : State) (b : Bool) : (s.setRxValid b).status.lastCode = s.status.lastCode := rfl
@[simp] theorem setRxValid_status_resValid (s : State) (b : Bool) : (s.setRxValid b).status.resValid = s.status.resValid := rfl
@[simp] theorem setRxValid_status_rxValid (s : State) (b : Bool) : (s.setRxValid b).status.rxValid = b := rfl
@[simp] theorem setRxValid_status_txValid (s : State) (b : Bool) : (s.setRxValid b).status.txValid = s.status.txValid := rfl

/-! #### setTxValid -/

@[simp] theorem setTxValid_fault (s : State) (b : Bool) : (s.setTxValid b).fault = s.fault := rfl
@[simp] theorem setTxValid_csu (s : State) (b : Bool) : (s.setTxValid b).csu = s.csu := rfl
@[simp] theorem setTxValid_tx (s : State) (b : Bool) : (s.setTxValid b).tx = s.tx := rfl
@[simp] theorem setTxValid_rx (s : State) (b : Bool) : (s.setTxValid b).rx = s.rx := rfl
@[simp] theorem setTxValid_din (s : State) (b : Bool) : (s.setTxValid b).din = s.din := rfl
@[simp] theorem setTxValid_fine (s : State) (b : Bool) : (s.setTxValid b).fine = s.fine := rfl
@[simp] theorem setTxValid_dout (s : State) (b : Bool) : (s.setTxValid b).dout = s.dout := rfl
@[simp] theorem setTxValid_pending (s : State) (b : Bool) : (s.setTxValid b).pending = s.pending := rfl
@[simp] theorem setTxValid_responses (s : State) (b : Bool) : (s.setTxValid b).responses = s.responses := rfl
@[simp] theorem setTxValid_status_lastCode (s : State) (b : Bool) : (s.setTxValid b).status.lastCode = s.status.lastCode := rfl
@[simp] theorem setTxValid_status_resValid (s : State) (b : Bool) : (s.setTxValid b).status.resValid = s.status.resValid := rfl
@[simp] theorem setTxValid_status_rxValid (s : State) (b : Bool) : (s.setTxValid b).status.rxValid = s.status.rxValid := rfl
@[simp] theorem setTxValid_status_txValid (s : State) (b : Bool) : (s.setTxValid b).status.txValid = b := rfl

/-! #### raiseFaultBit -/

@[simp] theorem raiseFaultBit_status (s : State) (c : Code) : (s.raiseFaultBit c).status = s.status := rfl
@[simp] theorem raiseFaultBit_csu (s : State) (c : Code) : (s.raiseFaultBit c).csu = s.csu := rfl
@[simp] theorem raiseFaultBit_tx (s : State) (c : Code) : (s.raiseFaultBit c).tx = s.tx := rfl
@[simp] theorem raiseFaultBit_rx (s : State) (c : Code) : (s.raiseFaultBit c).rx = s.rx := rfl
@[simp] theorem raiseFaultBit_din (s : State) (c : Code) : (s.raiseFaultBit c).din = s.din := rfl
@[simp] theorem raiseFaultBit_fine (s : State) (c : Code) : (s.raiseFaultBit c).fine = s.fine := rfl
@[simp] theorem raiseFaultBit_dout (s : State) (c : Code) : (s.raiseFaultBit c).dout = s.dout := rfl
@[simp] theorem raiseFaultBit_pending (s : State) (c : Code) : (s.raiseFaultBit c).pending = s.pending := rfl
@[simp] theorem raiseFaultBit_responses (s : State) (c : Code) : (s.raiseFaultBit c).responses = s.responses := rfl
@[simp] theorem raiseFaultBit_fault (s : State) (c : Code) : (s.raiseFaultBit c).fault = s.fault ||| c.faultBit := rfl

/-! #### pushResponse -/

@[simp] theorem pushResponse_status (s : State) (c : Code) (v : Word) : (s.pushResponse c v).status = s.status := rfl
@[simp] theorem pushResponse_fault (s : State) (c : Code) (v : Word) : (s.pushResponse c v).fault = s.fault := rfl
@[simp] theorem pushResponse_csu (s : State) (c : Code) (v : Word) : (s.pushResponse c v).csu = s.csu := rfl
@[simp] theorem pushResponse_tx (s : State) (c : Code) (v : Word) : (s.pushResponse c v).tx = s.tx := rfl
@[simp] theorem pushResponse_rx (s : State) (c : Code) (v : Word) : (s.pushResponse c v).rx = s.rx := rfl
@[simp] theorem pushResponse_din (s : State) (c : Code) (v : Word) : (s.pushResponse c v).din = s.din := rfl
@[simp] theorem pushResponse_fine (s : State) (c : Code) (v : Word) : (s.pushResponse c v).fine = s.fine := rfl
@[simp] theorem pushResponse_dout (s : State) (c : Code) (v : Word) : (s.pushResponse c v).dout = s.dout := rfl
@[simp] theorem pushResponse_pending (s : State) (c : Code) (v : Word) : (s.pushResponse c v).pending = s.pending := rfl
@[simp] theorem pushResponse_responses (s : State) (c : Code) (v : Word) : (s.pushResponse c v).responses = s.responses ++ [responseWord c v] := rfl

/-! #### setCsu -/

@[simp] theorem setCsu_status (s : State) (c : Csu) : (s.setCsu c).status = s.status := rfl
@[simp] theorem setCsu_fault (s : State) (c : Csu) : (s.setCsu c).fault = s.fault := rfl
@[simp] theorem setCsu_tx (s : State) (c : Csu) : (s.setCsu c).tx = s.tx := rfl
@[simp] theorem setCsu_rx (s : State) (c : Csu) : (s.setCsu c).rx = s.rx := rfl
@[simp] theorem setCsu_din (s : State) (c : Csu) : (s.setCsu c).din = s.din := rfl
@[simp] theorem setCsu_fine (s : State) (c : Csu) : (s.setCsu c).fine = s.fine := rfl
@[simp] theorem setCsu_dout (s : State) (c : Csu) : (s.setCsu c).dout = s.dout := rfl
@[simp] theorem setCsu_pending (s : State) (c : Csu) : (s.setCsu c).pending = s.pending := rfl
@[simp] theorem setCsu_responses (s : State) (c : Csu) : (s.setCsu c).responses = s.responses := rfl
@[simp] theorem setCsu_csu (s : State) (c : Csu) : (s.setCsu c).csu = c := rfl

/-! #### storeRaw -/

@[simp] theorem storeRaw_status (s : State) (raw : List Byte) : (s.storeRaw raw).status = s.status := by
  simp only [State.storeRaw]
@[simp] theorem storeRaw_fault (s : State) (raw : List Byte) : (s.storeRaw raw).fault = s.fault := by
  simp only [State.storeRaw]
@[simp] theorem storeRaw_csu (s : State) (raw : List Byte) : (s.storeRaw raw).csu = s.csu := by
  simp only [State.storeRaw]
@[simp] theorem storeRaw_rx (s : State) (raw : List Byte) : (s.storeRaw raw).rx = s.rx := by
  simp only [State.storeRaw]
@[simp] theorem storeRaw_din (s : State) (raw : List Byte) : (s.storeRaw raw).din = s.din := by
  simp only [State.storeRaw]
@[simp] theorem storeRaw_fine (s : State) (raw : List Byte) : (s.storeRaw raw).fine = s.fine := by
  simp only [State.storeRaw]
@[simp] theorem storeRaw_dout (s : State) (raw : List Byte) : (s.storeRaw raw).dout = s.dout := by
  simp only [State.storeRaw]
@[simp] theorem storeRaw_pending (s : State) (raw : List Byte) : (s.storeRaw raw).pending = s.pending := by
  simp only [State.storeRaw]
@[simp] theorem storeRaw_responses (s : State) (raw : List Byte) : (s.storeRaw raw).responses = s.responses := by
  simp only [State.storeRaw]
@[simp] theorem storeRaw_tx_ctrl (s : State) (raw : List Byte) : (s.storeRaw raw).tx.ctrl = s.tx.ctrl := by
  simp only [State.storeRaw]
@[simp] theorem storeRaw_tx_cmd (s : State) (raw : List Byte) : (s.storeRaw raw).tx.cmd = s.tx.cmd := by
  simp only [State.storeRaw]
@[simp] theorem storeRaw_tx_len (s : State) (raw : List Byte) : (s.storeRaw raw).tx.len = s.tx.len := by
  simp only [State.storeRaw]
@[simp] theorem storeRaw_tx_pay (s : State) (raw : List Byte) : (s.storeRaw raw).tx.pay = s.tx.pay := by
  simp only [State.storeRaw]
@[simp] theorem storeRaw_tx_raw (s : State) (raw : List Byte) : (s.storeRaw raw).tx.raw = rawTable raw := by
  simp only [State.storeRaw]
@[simp] theorem storeRaw_tx_rawLen (s : State) (raw : List Byte) : (s.storeRaw raw).tx.rawLen = BitVec.ofNat 10 raw.length := by
  simp only [State.storeRaw]

/-! #### setRxBuf -/

@[simp] theorem setRxBuf_status (s : State) (buf : List Byte) (idle : BitVec 2) : (s.setRxBuf buf idle).status = s.status := rfl
@[simp] theorem setRxBuf_fault (s : State) (buf : List Byte) (idle : BitVec 2) : (s.setRxBuf buf idle).fault = s.fault := rfl
@[simp] theorem setRxBuf_csu (s : State) (buf : List Byte) (idle : BitVec 2) : (s.setRxBuf buf idle).csu = s.csu := rfl
@[simp] theorem setRxBuf_tx (s : State) (buf : List Byte) (idle : BitVec 2) : (s.setRxBuf buf idle).tx = s.tx := rfl
@[simp] theorem setRxBuf_din (s : State) (buf : List Byte) (idle : BitVec 2) : (s.setRxBuf buf idle).din = s.din := rfl
@[simp] theorem setRxBuf_fine (s : State) (buf : List Byte) (idle : BitVec 2) : (s.setRxBuf buf idle).fine = s.fine := rfl
@[simp] theorem setRxBuf_dout (s : State) (buf : List Byte) (idle : BitVec 2) : (s.setRxBuf buf idle).dout = s.dout := rfl
@[simp] theorem setRxBuf_pending (s : State) (buf : List Byte) (idle : BitVec 2) : (s.setRxBuf buf idle).pending = s.pending := rfl
@[simp] theorem setRxBuf_responses (s : State) (buf : List Byte) (idle : BitVec 2) : (s.setRxBuf buf idle).responses = s.responses := rfl
@[simp] theorem setRxBuf_rx_ctrl (s : State) (buf : List Byte) (idle : BitVec 2) : (s.setRxBuf buf idle).rx.ctrl = s.rx.ctrl := rfl
@[simp] theorem setRxBuf_rx_cmd (s : State) (buf : List Byte) (idle : BitVec 2) : (s.setRxBuf buf idle).rx.cmd = s.rx.cmd := rfl
@[simp] theorem setRxBuf_rx_len (s : State) (buf : List Byte) (idle : BitVec 2) : (s.setRxBuf buf idle).rx.len = s.rx.len := rfl
@[simp] theorem setRxBuf_rx_flags (s : State) (buf : List Byte) (idle : BitVec 2) : (s.setRxBuf buf idle).rx.flags = s.rx.flags := rfl
@[simp] theorem setRxBuf_rx_cs8 (s : State) (buf : List Byte) (idle : BitVec 2) : (s.setRxBuf buf idle).rx.cs8 = s.rx.cs8 := rfl
@[simp] theorem setRxBuf_rx_cs16 (s : State) (buf : List Byte) (idle : BitVec 2) : (s.setRxBuf buf idle).rx.cs16 = s.rx.cs16 := rfl
@[simp] theorem setRxBuf_rx_pay (s : State) (buf : List Byte) (idle : BitVec 2) : (s.setRxBuf buf idle).rx.pay = s.rx.pay := rfl
@[simp] theorem setRxBuf_rx_buf (s : State) (buf : List Byte) (idle : BitVec 2) : (s.setRxBuf buf idle).rx.buf = buf := rfl
@[simp] theorem setRxBuf_rx_idle (s : State) (buf : List Byte) (idle : BitVec 2) : (s.setRxBuf buf idle).rx.idle = idle := rfl

/-! #### deliver -/

@[simp] theorem deliver_status (s : State) (u : List Byte) : (s.deliver u).status = s.status := rfl
@[simp] theorem deliver_fault (s : State) (u : List Byte) : (s.deliver u).fault = s.fault := rfl
@[simp] theorem deliver_csu (s : State) (u : List Byte) : (s.deliver u).csu = s.csu := rfl
@[simp] theorem deliver_tx (s : State) (u : List Byte) : (s.deliver u).tx = s.tx := rfl
@[simp] theorem deliver_din (s : State) (u : List Byte) : (s.deliver u).din = s.din := rfl
@[simp] theorem deliver_fine (s : State) (u : List Byte) : (s.deliver u).fine = s.fine := rfl
@[simp] theorem deliver_dout (s : State) (u : List Byte) : (s.deliver u).dout = s.dout := rfl
@[simp] theorem deliver_pending (s : State) (u : List Byte) : (s.deliver u).pending = s.pending := rfl
@[simp] theorem deliver_responses (s : State) (u : List Byte) : (s.deliver u).responses = s.responses := rfl
@[simp] theorem deliver_rx_buf (s : State) (u : List Byte) : (s.deliver u).rx.buf = s.rx.buf := rfl
@[simp] theorem deliver_rx_idle (s : State) (u : List Byte) : (s.deliver u).rx.idle = s.rx.idle := rfl
@[simp] theorem deliver_rx_ctrl (s : State) (u : List Byte) : (s.deliver u).rx.ctrl = u.getD 1 0 := rfl
@[simp] theorem deliver_rx_cmd (s : State) (u : List Byte) : (s.deliver u).rx.cmd = u.getD 2 0 := rfl
@[simp] theorem deliver_rx_len (s : State) (u : List Byte) : (s.deliver u).rx.len = u.getD 3 0 := rfl
@[simp] theorem deliver_rx_cs8 (s : State) (u : List Byte) : (s.deliver u).rx.cs8 = u.getD 4 0 := rfl
@[simp] theorem deliver_rx_cs16 (s : State) (u : List Byte) : (s.deliver u).rx.cs16 = frameCs16 u := rfl
@[simp] theorem deliver_rx_flags (s : State) (u : List Byte) : (s.deliver u).rx.flags = frameFlags u := rfl
@[simp] theorem deliver_rx_pay (s : State) (u : List Byte) : (s.deliver u).rx.pay = payTable u := rfl

/-! #### commit -/

@[simp] theorem commit_fault (s : State) (f : Vector Word 256) (o : SolverOut) : (s.commit f o).fault = s.fault := rfl
@[simp] theorem commit_csu (s : State) (f : Vector Word 256) (o : SolverOut) : (s.commit f o).csu = s.csu := rfl
@[simp] theorem commit_tx (s : State) (f : Vector Word 256) (o : SolverOut) : (s.commit f o).tx = s.tx := rfl
@[simp] theorem commit_rx (s : State) (f : Vector Word 256) (o : SolverOut) : (s.commit f o).rx = s.rx := rfl
@[simp] theorem commit_din (s : State) (f : Vector Word 256) (o : SolverOut) : (s.commit f o).din = s.din := rfl
@[simp] theorem commit_pending (s : State) (f : Vector Word 256) (o : SolverOut) : (s.commit f o).pending = s.pending := rfl
@[simp] theorem commit_responses (s : State) (f : Vector Word 256) (o : SolverOut) : (s.commit f o).responses = s.responses := rfl
@[simp] theorem commit_fine (s : State) (f : Vector Word 256) (o : SolverOut) : (s.commit f o).fine = f := rfl
@[simp] theorem commit_dout (s : State) (f : Vector Word 256) (o : SolverOut) : (s.commit f o).dout = o := rfl
@[simp] theorem commit_status_lastCode (s : State) (f : Vector Word 256) (o : SolverOut) : (s.commit f o).status.lastCode = s.status.lastCode := rfl
@[simp] theorem commit_status_resValid (s : State) (f : Vector Word 256) (o : SolverOut) : (s.commit f o).status.resValid = true := rfl
@[simp] theorem commit_status_rxValid (s : State) (f : Vector Word 256) (o : SolverOut) : (s.commit f o).status.rxValid = s.status.rxValid := rfl
@[simp] theorem commit_status_txValid (s : State) (f : Vector Word 256) (o : SolverOut) : (s.commit f o).status.txValid = s.status.txValid := rfl

/-! #### presentWord -/

@[simp] theorem presentWord_status (s : State) (cw : PortWord) : (presentWord cw s).status = s.status := rfl
@[simp] theorem presentWord_fault (s : State) (cw : PortWord) : (presentWord cw s).fault = s.fault := rfl
@[simp] theorem presentWord_csu (s : State) (cw : PortWord) : (presentWord cw s).csu = s.csu := rfl
@[simp] theorem presentWord_tx (s : State) (cw : PortWord) : (presentWord cw s).tx = s.tx := rfl
@[simp] theorem presentWord_rx (s : State) (cw : PortWord) : (presentWord cw s).rx = s.rx := rfl
@[simp] theorem presentWord_din (s : State) (cw : PortWord) : (presentWord cw s).din = s.din := rfl
@[simp] theorem presentWord_fine (s : State) (cw : PortWord) : (presentWord cw s).fine = s.fine := rfl
@[simp] theorem presentWord_dout (s : State) (cw : PortWord) : (presentWord cw s).dout = s.dout := rfl
@[simp] theorem presentWord_responses (s : State) (cw : PortWord) : (presentWord cw s).responses = s.responses := rfl
@[simp] theorem presentWord_pending (s : State) (cw : PortWord) : (presentWord cw s).pending = .command cw :: s.pending := rfl

/-! #### resetBlock -/

@[simp] theorem resetBlock_status (s : State) : (resetBlock s).status = State.reset.status := by
  simp only [resetBlock]
@[simp] theorem resetBlock_fault (s : State) : (resetBlock s).fault = State.reset.fault := by
  simp only [resetBlock]
@[simp] theorem resetBlock_csu (s : State) : (resetBlock s).csu = State.reset.csu := by
  simp only [resetBlock]
@[simp] theorem resetBlock_tx (s : State) : (resetBlock s).tx = State.reset.tx := by
  simp only [resetBlock]
@[simp] theorem resetBlock_rx (s : State) : (resetBlock s).rx = State.reset.rx := by
  simp only [resetBlock]
@[simp] theorem resetBlock_din (s : State) : (resetBlock s).din = State.reset.din := by
  simp only [resetBlock]
@[simp] theorem resetBlock_fine (s : State) : (resetBlock s).fine = State.reset.fine := by
  simp only [resetBlock]
@[simp] theorem resetBlock_dout (s : State) : (resetBlock s).dout = State.reset.dout := by
  simp only [resetBlock]
@[simp] theorem resetBlock_pending (s : State) : (resetBlock s).pending = s.pending := by
  simp only [resetBlock]
@[simp] theorem resetBlock_responses (s : State) : (resetBlock s).responses = s.responses := by
  simp only [resetBlock]

/-! ### Answers -/


/-! #### respond -/

@[simp] theorem respond_fault (c : Code) (v : Word) (s : State) : (respond c v s).fault = s.fault := rfl
@[simp] theorem respond_csu (c : Code) (v : Word) (s : State) : (respond c v s).csu = s.csu := rfl
@[simp] theorem respond_tx (c : Code) (v : Word) (s : State) : (respond c v s).tx = s.tx := rfl
@[simp] theorem respond_rx (c : Code) (v : Word) (s : State) : (respond c v s).rx = s.rx := rfl
@[simp] theorem respond_din (c : Code) (v : Word) (s : State) : (respond c v s).din = s.din := rfl
@[simp] theorem respond_fine (c : Code) (v : Word) (s : State) : (respond c v s).fine = s.fine := rfl
@[simp] theorem respond_dout (c : Code) (v : Word) (s : State) : (respond c v s).dout = s.dout := rfl
@[simp] theorem respond_pending (c : Code) (v : Word) (s : State) : (respond c v s).pending = s.pending := rfl
@[simp] theorem respond_status_lastCode (c : Code) (v : Word) (s : State) : (respond c v s).status.lastCode = c.bits := rfl
@[simp] theorem respond_status_resValid (c : Code) (v : Word) (s : State) : (respond c v s).status.resValid = s.status.resValid := rfl
@[simp] theorem respond_status_rxValid (c : Code) (v : Word) (s : State) : (respond c v s).status.rxValid = s.status.rxValid := rfl
@[simp] theorem respond_status_txValid (c : Code) (v : Word) (s : State) : (respond c v s).status.txValid = s.status.txValid := rfl
@[simp] theorem respond_responses (c : Code) (v : Word) (s : State) : (respond c v s).responses = s.responses ++ [responseWord c v] := rfl

/-! #### respondQuietly -/

@[simp] theorem respondQuietly_status (c : Code) (v : Word) (s : State) : (respondQuietly c v s).status = s.status := rfl
@[simp] theorem respondQuietly_fault (c : Code) (v : Word) (s : State) : (respondQuietly c v s).fault = s.fault := rfl
@[simp] theorem respondQuietly_csu (c : Code) (v : Word) (s : State) : (respondQuietly c v s).csu = s.csu := rfl
@[simp] theorem respondQuietly_tx (c : Code) (v : Word) (s : State) : (respondQuietly c v s).tx = s.tx := rfl
@[simp] theorem respondQuietly_rx (c : Code) (v : Word) (s : State) : (respondQuietly c v s).rx = s.rx := rfl
@[simp] theorem respondQuietly_din (c : Code) (v : Word) (s : State) : (respondQuietly c v s).din = s.din := rfl
@[simp] theorem respondQuietly_fine (c : Code) (v : Word) (s : State) : (respondQuietly c v s).fine = s.fine := rfl
@[simp] theorem respondQuietly_dout (c : Code) (v : Word) (s : State) : (respondQuietly c v s).dout = s.dout := rfl
@[simp] theorem respondQuietly_pending (c : Code) (v : Word) (s : State) : (respondQuietly c v s).pending = s.pending := rfl
@[simp] theorem respondQuietly_responses (c : Code) (v : Word) (s : State) : (respondQuietly c v s).responses = s.responses ++ [responseWord c v] := rfl

/-! #### faultOut -/

@[simp] theorem faultOut_csu (c : Code) (s : State) : (faultOut c s).csu = s.csu := rfl
@[simp] theorem faultOut_tx (c : Code) (s : State) : (faultOut c s).tx = s.tx := rfl
@[simp] theorem faultOut_rx (c : Code) (s : State) : (faultOut c s).rx = s.rx := rfl
@[simp] theorem faultOut_din (c : Code) (s : State) : (faultOut c s).din = s.din := rfl
@[simp] theorem faultOut_fine (c : Code) (s : State) : (faultOut c s).fine = s.fine := rfl
@[simp] theorem faultOut_dout (c : Code) (s : State) : (faultOut c s).dout = s.dout := rfl
@[simp] theorem faultOut_pending (c : Code) (s : State) : (faultOut c s).pending = s.pending := rfl
@[simp] theorem faultOut_status_lastCode (c : Code) (s : State) : (faultOut c s).status.lastCode = c.bits := rfl
@[simp] theorem faultOut_status_resValid (c : Code) (s : State) : (faultOut c s).status.resValid = s.status.resValid := rfl
@[simp] theorem faultOut_status_rxValid (c : Code) (s : State) : (faultOut c s).status.rxValid = s.status.rxValid := rfl
@[simp] theorem faultOut_status_txValid (c : Code) (s : State) : (faultOut c s).status.txValid = s.status.txValid := rfl
@[simp] theorem faultOut_fault (c : Code) (s : State) : (faultOut c s).fault = s.fault ||| c.faultBit := rfl
@[simp] theorem faultOut_responses (c : Code) (s : State) : (faultOut c s).responses = s.responses ++ [responseWord c 0] := rfl

/-! #### failSolve -/

@[simp] theorem failSolve_fault (c : Code) (s : State) : (failSolve c s).fault = s.fault := rfl
@[simp] theorem failSolve_csu (c : Code) (s : State) : (failSolve c s).csu = s.csu := rfl
@[simp] theorem failSolve_tx (c : Code) (s : State) : (failSolve c s).tx = s.tx := rfl
@[simp] theorem failSolve_rx (c : Code) (s : State) : (failSolve c s).rx = s.rx := rfl
@[simp] theorem failSolve_din (c : Code) (s : State) : (failSolve c s).din = s.din := rfl
@[simp] theorem failSolve_fine (c : Code) (s : State) : (failSolve c s).fine = s.fine := rfl
@[simp] theorem failSolve_dout (c : Code) (s : State) : (failSolve c s).dout = s.dout := rfl
@[simp] theorem failSolve_pending (c : Code) (s : State) : (failSolve c s).pending = s.pending := rfl
@[simp] theorem failSolve_status_lastCode (c : Code) (s : State) : (failSolve c s).status.lastCode = c.bits := rfl
@[simp] theorem failSolve_status_resValid (c : Code) (s : State) : (failSolve c s).status.resValid = false := rfl
@[simp] theorem failSolve_status_rxValid (c : Code) (s : State) : (failSolve c s).status.rxValid = s.status.rxValid := rfl
@[simp] theorem failSolve_status_txValid (c : Code) (s : State) : (failSolve c s).status.txValid = s.status.txValid := rfl
@[simp] theorem failSolve_responses (c : Code) (s : State) : (failSolve c s).responses = s.responses ++ [responseWord c 0] := rfl

/-! #### writeReg: what no WR reaches -/

@[simp] theorem writeReg_status (r : Reg) (d : Word) (s : State) : (writeReg r d s).status = s.status := by
  cases r <;> rfl
@[simp] theorem writeReg_fault (r : Reg) (d : Word) (s : State) : (writeReg r d s).fault = s.fault := by
  cases r <;> rfl
@[simp] theorem writeReg_csu (r : Reg) (d : Word) (s : State) : (writeReg r d s).csu = s.csu := by
  cases r <;> rfl
@[simp] theorem writeReg_rx (r : Reg) (d : Word) (s : State) : (writeReg r d s).rx = s.rx := by
  cases r <;> rfl
@[simp] theorem writeReg_dout (r : Reg) (d : Word) (s : State) : (writeReg r d s).dout = s.dout := by
  cases r <;> rfl
@[simp] theorem writeReg_pending (r : Reg) (d : Word) (s : State) : (writeReg r d s).pending = s.pending := by
  cases r <;> rfl
@[simp] theorem writeReg_responses (r : Reg) (d : Word) (s : State) : (writeReg r d s).responses = s.responses := by
  cases r <;> rfl

end Sys2Proof.Laws
end

