-- ==== Sys2Proof/Laws/Ops.lean ====
section
/-! SUPPORT. What the shared operations do, each said once: tables, integers, answers and faults. -/

namespace Sys2Proof.Laws

open Sys2Proof.Machine

/-! ### Tables -/

@[simp] theorem tabulate_getElem {α : Type} (n : Nat) (f : Nat → α) (k : Nat) (h : k < n) :
    (tabulate n f)[k] = f k := by
  simp [tabulate]

@[simp] theorem dipoleTable_getElem (f : Dipole → Word) (i : Dipole) : (dipoleTable f)[i.val] = f i := by
  simp [dipoleTable]

@[simp] theorem dipoleTable_getElem_fin (f : Dipole → Word) (i : Dipole) : (dipoleTable f)[i] = f i := by
  rw [Fin.getElem_fin, dipoleTable_getElem]

@[simp] theorem tabulate_getElem_fin {α : Type} (n : Nat) (f : Nat → α) (k : Fin n) : (tabulate n f)[k] = f k.val := by
  rw [Fin.getElem_fin, tabulate_getElem]

theorem toList_tabulate {α : Type} (n : Nat) (f : Nat → α) : (tabulate n f).toList = (List.range n).map f := rfl

@[simp] theorem rawTable_getElem (raw : List Byte) (k : Nat) (h : k < 523) : (rawTable raw)[k] = raw.getD k 0 := by
  simp only [rawTable, tabulate_getElem]

@[simp] theorem payTable_getElem (u : List Byte) (k : Nat) (h : k < 255) :
    (payTable u)[k] = if k < frameLen u then u.getD (5 + k) 0 else 0 := by
  simp only [payTable, tabulate_getElem]

/-! ### Integers -/

theorem clamp_le {v lo hi : Int} (h : lo ≤ hi) : clamp v lo hi ≤ hi := by unfold clamp; omega

theorem le_clamp (v lo hi : Int) : lo ≤ clamp v lo hi := by unfold clamp; omega

theorem clamp_of_mem {v lo hi : Int} (h1 : lo ≤ v) (h2 : v ≤ hi) : clamp v lo hi = v := by unfold clamp; omega

@[simp] theorem rnd_zero (d : Int) : rnd 0 d = 0 := by simp [rnd]

/-- The magnitude of a rounded quotient is the rounded quotient of the magnitude. -/
theorem natAbs_rnd (n d : Int) (hd : 0 < d) :
    ((rnd n d).natAbs : Int) = (2 * (n.natAbs : Int) + d) / (2 * d) := by
  rcases Int.lt_trichotomy n 0 with hn | rfl | hn
  · have h0 : 0 ≤ (2 * (n.natAbs : Int) + d) / (2 * d) := Int.ediv_nonneg (by omega) (by omega)
    rw [rnd, Int.sign_eq_neg_one_of_neg hn]
    omega
  · have : d / (2 * d) = 0 := Int.ediv_eq_zero_of_lt hd.le (by omega)
    simp [this]
  · have h0 : 0 ≤ (2 * (n.natAbs : Int) + d) / (2 * d) := Int.ediv_nonneg (by omega) (by omega)
    rw [rnd, Int.sign_eq_one_of_pos hn]
    omega

/-- Rounding moves a number by at most half a step (R11). -/
theorem abs_sub_mul_rnd_le (n d : Int) (hd : 0 < d) : 2 * |n - d * rnd n d| ≤ d := by
  have hm := Int.emod_add_mul_ediv (2 * (n.natAbs : Int) + d) (2 * d)
  have h1 := Int.emod_nonneg (2 * (n.natAbs : Int) + d) (show 2 * d ≠ 0 by omega)
  have h2 := Int.emod_lt_of_pos (2 * (n.natAbs : Int) + d) (show 0 < 2 * d by omega)
  unfold rnd
  set q := (2 * (n.natAbs : Int) + d) / (2 * d)
  have hq : 2 * d * q = 2 * (d * q) := by ring
  rw [Int.abs_eq_natAbs]
  rcases Int.lt_trichotomy n 0 with hn | rfl | hn
  · rw [Int.sign_eq_neg_one_of_neg hn, show d * (-1 * q) = -(d * q) by ring]
    omega
  · simp; omega
  · rw [Int.sign_eq_one_of_pos hn, show d * (1 * q) = d * q by ring]
    omega

/-- The magnitude of a rounded quotient: at most half a step beyond the number. -/
theorem abs_mul_rnd_le (n d : Int) (hd : 0 < d) : 2 * |d * rnd n d| ≤ 2 * |n| + d := by
  have := abs_sub_mul_rnd_le n d hd
  rw [Int.abs_eq_natAbs] at this ⊢
  rw [Int.abs_eq_natAbs]
  omega

/-- A value that fits a signed register is read back as it was. -/
theorem toInt_to32 {v : Int} (h1 : -2 ^ 31 ≤ v) (h2 : v < 2 ^ 31) : (to32 v).toInt = v := by
  unfold to32
  rw [BitVec.toInt_ofInt, Int.bmod_eq_of_le] <;> omega

/-! ### Answers and faults -/

/-- All that `respond` does (40_host_access.md R110). -/
theorem respond_eq (c : Code) (v : Word) (s : State) : respond c v s =
    { s with status := { s.status with lastCode := c.bits }, responses := s.responses ++ [responseWord c v] } := rfl

/-- All that answering RD or NOP does (R110). -/
theorem respondQuietly_eq (c : Code) (v : Word) (s : State) : respondQuietly c v s =
    { s with responses := s.responses ++ [responseWord c v] } := rfl

/-- All that a fault does (60_exceptions.md R223). -/
theorem faultOut_eq (c : Code) (s : State) : faultOut c s =
    { s with fault := s.fault ||| c.faultBit
             status := { s.status with lastCode := c.bits }
             responses := s.responses ++ [responseWord c 0] } := rfl

/-- All that a failure outcome of a solve does (43_delay_solver.md R185). -/
theorem failSolve_eq (c : Code) (s : State) : failSolve c s =
    { s with status := { s.status with lastCode := c.bits, resValid := false }
             responses := s.responses ++ [responseWord c 0] } := rfl

end Sys2Proof.Laws
end

