-- ==== Sys2Proof/Laws/Frame.lean ====
section
/-! SUPPORT. The frame codec's functions: resynchronisation, the scan, and the undoing of the escapes. -/

namespace Sys2Proof.Laws

open Sys2Proof.Machine

/-- Resynchronisation removes bytes from the front (42_frame_codec.md R147). -/
theorem resync_suffix (p : Params) (buf : List Byte) : resync p buf <:+ buf := List.dropWhile_suffix _

/-- What resynchronisation leaves is empty or begins with START (R147). -/
theorem resync_head (p : Params) (buf : List Byte) : resync p buf = [] ∨ ∃ rest, resync p buf = p.start :: rest := by
  induction buf with
  | nil => exact .inl rfl
  | cons b bs ih =>
    by_cases h : b = p.start
    · exact .inr ⟨bs, by simp [resync, h]⟩
    · have : resync p (b :: bs) = resync p bs := by simp [resync, h]
      rw [this]
      exact ih

/-- A buffer that begins with START is left as it is (R147). -/
@[simp] theorem resync_start (p : Params) (rest : List Byte) : resync p (p.start :: rest) = p.start :: rest := by
  simp [resync]

/-- Bytes without START before a START are dropped (R147). -/
theorem resync_append (p : Params) (g rest : List Byte) (h : p.start ∉ g) :
    resync p (g ++ p.start :: rest) = p.start :: rest := by
  induction g with
  | nil => simp
  | cons b bs ih =>
    simp only [List.mem_cons, not_or] at h
    have : resync p (b :: bs ++ p.start :: rest) = resync p (bs ++ p.start :: rest) := by
      simp [resync, Ne.symm h.1]
    rw [this, ih h.2]

/-- One turn of the scan (R148): the equation of `scanLoop` on a buffer with a byte left. -/
theorem scanLoop_turn (p : Params) (b : Byte) (rest u : List Byte) (j total : Nat) :
    scanLoop p (b :: rest) u j total =
      if u.length < total then
        if b = p.esc then
          match rest with
          | [] => ⟨u, j, u.length == total⟩
          | b' :: rest' =>
            scanLoop p rest' (u ++ [b' ^^^ p.mask]) (j + 2) (expectedSize (u ++ [b' ^^^ p.mask]) total)
        else scanLoop p rest (u ++ [b]) (j + 1) (expectedSize (u ++ [b]) total)
      else ⟨u, j, u.length == total⟩ := by
  cases rest <;> rfl

/-- The scan stops where the expected size is reached (R148). -/
theorem scanLoop_full (p : Params) (bs u : List Byte) (j total : Nat) (h : u.length = total) :
    scanLoop p bs u j total = ⟨u, j, true⟩ := by
  cases bs with
  | nil => simp [scanLoop, h]
  | cons b rest => rw [scanLoop_turn, if_neg (by omega)]; simp [h]

/-- The escape of one byte is undone by the scan, in one turn (R142, R148). -/
theorem scanLoop_stuffByte (p : Params) (b : Byte) (rest u : List Byte) (j total : Nat) (h : u.length < total) :
    scanLoop p (stuffByte p b ++ rest) u j total =
      scanLoop p rest (u ++ [b]) (j + (stuffByte p b).length) (expectedSize (u ++ [b]) total) := by
  unfold stuffByte
  split
  · have hx : b ^^^ p.mask ^^^ p.mask = b := by simp
    rw [List.cons_append, scanLoop_turn, if_pos h, if_pos rfl]
    simp [hx]
  · rename_i hb
    simp only [not_or] at hb
    rw [List.singleton_append, scanLoop_turn, if_pos h, if_neg hb.2]
    rfl

/-- A step of the scan: stop, wait on a lone ESC, or take one unescaped byte from one or two raw bytes (R148). -/
theorem scanLoop_cons (p : Params) (b : Byte) (rest u : List Byte) (j total : Nat) :
    (¬ u.length < total ∧ scanLoop p (b :: rest) u j total = ⟨u, j, u.length == total⟩) ∨
    (u.length < total ∧ b = p.esc ∧ rest = [] ∧ scanLoop p (b :: rest) u j total = ⟨u, j, u.length == total⟩) ∨
    (∃ b' rest', u.length < total ∧ b = p.esc ∧ rest = b' :: rest' ∧ scanLoop p (b :: rest) u j total =
      scanLoop p rest' (u ++ [b' ^^^ p.mask]) (j + 2) (expectedSize (u ++ [b' ^^^ p.mask]) total)) ∨
    (u.length < total ∧ b ≠ p.esc ∧ scanLoop p (b :: rest) u j total =
      scanLoop p rest (u ++ [b]) (j + 1) (expectedSize (u ++ [b]) total)) := by
  rw [scanLoop_turn]
  by_cases h : u.length < total
  · rw [if_pos h]
    by_cases hb : b = p.esc
    · rw [if_pos hb]
      cases rest with
      | nil => exact .inr (.inl ⟨h, hb, rfl, rfl⟩)
      | cons b' rest' => exact .inr (.inr (.inl ⟨b', rest', h, hb, rfl, rfl⟩))
    · rw [if_neg hb]
      exact .inr (.inr (.inr ⟨h, hb, rfl⟩))
  · rw [if_neg h]
    exact .inl ⟨h, rfl⟩

/-- The size expected while fewer than five bytes are known is five, and from then on the length byte's (R90, R148). -/
def sizeKnown (u : List Byte) (total : Nat) : Prop :=
  (u.length < 5 → total = 5) ∧ (5 ≤ u.length → total = totalSize (u.getD 3 0))

theorem five_le_totalSize (b : Byte) : 5 ≤ totalSize b := by
  unfold totalSize
  split <;> omega

theorem totalSize_le (b : Byte) : totalSize b ≤ 262 := by
  unfold totalSize
  split
  · omega
  · have := b.isLt
    omega

/-- One more byte keeps the expected size right (R148). -/
theorem sizeKnown_append {u : List Byte} {total : Nat} (x : Byte) (h : sizeKnown u total) :
    sizeKnown (u ++ [x]) (expectedSize (u ++ [x]) total) := by
  unfold sizeKnown expectedSize at *
  simp only [List.length_append, List.length_singleton]
  by_cases h5 : u.length + 1 = 5
  · simp only [h5, if_true]
    simp
  · simp only [h5, if_false]
    refine ⟨fun hl => h.1 (by omega), fun hl => ?_⟩
    rw [h.2 (by omega), List.getD_append _ _ _ _ (by omega)]

/-- What holds of every scan result holds after each of its turns: the induction over the scan, packaged once.
`P` speaks of the unescaped bytes, the raw bytes taken and the expected size. -/
theorem scanLoop_induct (p : Params) (P : List Byte → Nat → Nat → Prop)
    (hone : ∀ u j total x, P u j total → u.length < total → P (u ++ [x]) (j + 1) (expectedSize (u ++ [x]) total))
    (htwo : ∀ u j total x, P u j total → u.length < total → P (u ++ [x]) (j + 2) (expectedSize (u ++ [x]) total)) :
    ∀ (n : Nat) (bs u : List Byte) (j total : Nat), bs.length ≤ n → P u j total →
      ∃ u' j' total', P u' j' total' ∧ j' ≤ j + bs.length ∧
        scanLoop p bs u j total = ⟨u', j', u'.length == total'⟩ := by
  intro n
  induction n with
  | zero =>
    intro bs u j total hn hP
    cases bs with
    | nil => exact ⟨u, j, total, hP, by simp, rfl⟩
    | cons b rest => simp at hn
  | succ n ih =>
    intro bs u j total hn hP
    cases bs with
    | nil => exact ⟨u, j, total, hP, by simp, rfl⟩
    | cons b rest =>
      simp only [List.length_cons] at hn ⊢
      rcases scanLoop_cons p b rest u j total with ⟨_, e⟩ | ⟨_, _, _, e⟩ | ⟨b', rest', hlt, _, rfl, e⟩ | ⟨hlt, _, e⟩
      · exact ⟨u, j, total, hP, by omega, e⟩
      · exact ⟨u, j, total, hP, by omega, e⟩
      · simp only [List.length_cons] at hn ⊢
        obtain ⟨u', j', t', h1, h2, h3⟩ := ih rest' _ (j + 2) _ (by omega) (htwo u j total (b' ^^^ p.mask) hP hlt)
        exact ⟨u', j', t', h1, by omega, e.trans h3⟩
      · obtain ⟨u', j', t', h1, h2, h3⟩ := ih rest _ (j + 1) _ (by omega) (hone u j total b hP hlt)
        exact ⟨u', j', t', h1, by omega, e.trans h3⟩

/-- A scan takes at least the START and at most the whole buffer, and a complete one has exactly the size that its
length byte gives (R148, R90). -/
theorem scan_spec (p : Params) (b : Byte) (rest : List Byte) :
    1 ≤ (scan p (b :: rest)).taken ∧ (scan p (b :: rest)).taken ≤ rest.length + 1 ∧
    (scan p (b :: rest)).bytes.getD 0 0 = b ∧
    ((scan p (b :: rest)).complete = true →
      (scan p (b :: rest)).bytes.length = totalSize ((scan p (b :: rest)).bytes.getD 3 0)) := by
  have step1 : ∀ (u : List Byte) (j total : Nat) (x : Byte) (k : Nat), 1 ≤ k →
      (1 ≤ j ∧ 1 ≤ u.length ∧ u.getD 0 0 = b ∧ sizeKnown u total) → u.length < total →
      (1 ≤ j + k ∧ 1 ≤ (u ++ [x]).length ∧ (u ++ [x]).getD 0 0 = b ∧
        sizeKnown (u ++ [x]) (expectedSize (u ++ [x]) total)) := by
    intro u j total x k hk ⟨h1, h2, h3, h4⟩ hlt
    refine ⟨by omega, by simp, ?_, sizeKnown_append x h4⟩
    rw [List.getD_append _ _ _ _ (by omega)]
    exact h3
  obtain ⟨u', j', t', ⟨h1, h2, h3, h4⟩, h5, h6⟩ := scanLoop_induct p
    (fun u j total => 1 ≤ j ∧ 1 ≤ u.length ∧ u.getD 0 0 = b ∧ sizeKnown u total)
    (fun u j total x h hlt => step1 u j total x 1 (by omega) h hlt)
    (fun u j total x h hlt => step1 u j total x 2 (by omega) h hlt)
    rest.length rest [b] 1 5 le_rfl ⟨by omega, by simp, rfl, by simp [sizeKnown]⟩
  have e : scan p (b :: rest) = ⟨u', j', u'.length == t'⟩ := h6
  rw [e]
  refine ⟨h1, show j' ≤ rest.length + 1 by omega, h3, fun hc => ?_⟩
  have hlen : u'.length = t' := by simpa using hc
  show u'.length = _
  by_cases h : u'.length < 5
  · have := h4.1 h
    omega
  · rw [hlen, h4.2 (by omega)]

end Sys2Proof.Laws
end

