-- ==== Sys2Proof/Laws/Machine.lean ====
section
/-! SUPPORT. What each command and the step can do, said once: cite these cases and do not unfold the command. -/

namespace Sys2Proof.Laws

open Sys2Proof.Machine

/-! ### Every command answers a next state: rewrite with these and do not let `cases` evaluate the next state -/

theorem exec_nop (s : State) : exec .nop s = .next (nopOp s) := rfl

theorem exec_rd (a : RegAddr) (s : State) : exec (.rd a) s = .next (rdOp Config.params a s) := rfl

theorem exec_wr (a : RegAddr) (d : Word) (s : State) : exec (.wr a d) s = .next (wrOp a d s) := rfl

theorem exec_csclr (s : State) : exec .csclr s = .next (csclrOp s) := rfl

theorem exec_cspush (b : Byte) (s : State) : exec (.cspush b) s = .next (cspushOp b s) := rfl

theorem exec_csrd8 (s : State) : exec .csrd8 s = .next (csrd8Op s) := rfl

theorem exec_csrd16 (s : State) : exec .csrd16 s = .next (csrd16Op s) := rfl

theorem exec_fenc (s : State) : exec .fenc s = .next (fencOp Config.params s) := rfl

theorem exec_rxdata (b : Byte) (s : State) : exec (.rxdata b) s = .next (rxdataOp Config.params b s) := rfl

theorem exec_rxidle (s : State) : exec .rxidle s = .next (rxidleOp s) := rfl

theorem exec_fdec (s : State) : exec .fdec s = .next (fdecOp Config.params s) := rfl

theorem exec_rxflush (s : State) : exec .rxflush s = .next (rxflushOp s) := rfl

theorem exec_solve (s : State) : exec .solve s = .next (solveOp Config.params s) := rfl

theorem exec_refine (s : State) : exec .refine s = .next (refineOp Config.params s) := rfl

theorem exec_reset (s : State) : exec .reset s = .next (resetOp s) := rfl

/-! ### What each command does, case by case -/

/-- RD faults at an unmapped address and else answers the register (40_host_access.md R112). -/
theorem rdOp_cases (p : Params) (a : RegAddr) (s : State) :
    (regAt a = none ∧ rdOp p a s = faultOut .fAddr s) ∨
    ∃ r, regAt a = some r ∧ rdOp p a s = respondQuietly .ok (readReg p s r) s := by
  unfold rdOp
  cases regAt a with
  | none => exact .inl ⟨rfl, rfl⟩
  | some r => exact .inr ⟨r, rfl, rfl⟩

/-- WR faults at an address it may not write, then at a value it may not write, and else writes the register (R113). -/
theorem wrOp_cases (a : RegAddr) (d : Word) (s : State) :
    ((∀ r, regAt a = some r → access r = .ro) ∧ wrOp a d s = faultOut .fAddr s) ∨
    (∃ r, regAt a = some r ∧ access r = .rw ∧ legalValue r d = false ∧ wrOp a d s = faultOut .fRange s) ∨
    (∃ r, regAt a = some r ∧ access r = .rw ∧ legalValue r d = true ∧
      wrOp a d s = respond .ok 0 (writeReg r d s)) := by
  unfold wrOp
  cases regAt a with
  | none => exact .inl ⟨by simp, rfl⟩
  | some r =>
    cases ha : access r
    · exact .inl ⟨by simpa using ha, by simp [ha]⟩
    · cases hl : legalValue r d
      · exact .inr (.inl ⟨r, rfl, ha, hl, by simp [ha, hl]⟩)
      · exact .inr (.inr ⟨r, rfl, ha, hl, by simp [ha, hl]⟩)

/-- CSPUSH faults at 65535 bytes and else absorbs the byte (41_checksum.md R126). -/
theorem cspushOp_cases (b : Byte) (s : State) :
    (s.csu.cnt.toNat = 65535 ∧ cspushOp b s = faultOut .fCsovf s) ∨
    (s.csu.cnt.toNat ≠ 65535 ∧
      cspushOp b s = respond .ok ((absorb b s.csu).cnt.setWidth 32) (s.setCsu (absorb b s.csu))) := by
  unfold cspushOp
  split <;> simp_all

/-- RXDATA faults on a full buffer and else appends the byte (42_frame_codec.md R145). -/
theorem rxdataOp_cases (p : Params) (b : Byte) (s : State) :
    (s.rx.buf.length = p.rxbufCap ∧ rxdataOp p b s = faultOut .fRxovf s) ∨
    (s.rx.buf.length ≠ p.rxbufCap ∧ rxdataOp p b s =
      respond .ok (BitVec.ofNat 32 (s.rx.buf.length + 1)) (s.setRxBuf (s.rx.buf ++ [b]) 0)) := by
  unfold rxdataOp
  split <;> simp_all

/-- The buffer from its first START on, and what a scan of it finds. -/
def scanned (p : Params) (s : State) : Scan := scan p (resync p s.rx.buf)

/-- FDEC delivers a whole frame, else times out after two idle reads, else waits (R150). -/
theorem fdecOp_cases (p : Params) (s : State) :
    ((scanned p s).complete = true ∧ fdecOp p s =
      respond (deliveryCode (scanned p s).bytes) ((frameFlags (scanned p s).bytes).setWidth 32)
        (((s.deliver (scanned p s).bytes).setRxBuf ((resync p s.rx.buf).drop (scanned p s).taken) 0).setRxValid true)) ∨
    ((scanned p s).complete = false ∧ s.rx.idle = 2 ∧ fdecOp p s =
      respond .timeout 0 ((s.setRxBuf [] 0).setRxValid false)) ∨
    ((scanned p s).complete = false ∧ s.rx.idle ≠ 2 ∧ fdecOp p s =
      respond .incomplete 0 ((s.setRxBuf (resync p s.rx.buf) s.rx.idle).setRxValid false)) := by
  simp only [fdecOp, scanned]
  cases hc : (scan p (resync p s.rx.buf)).complete
  · by_cases hi : s.rx.idle = 2
    · exact .inr (.inl ⟨rfl, hi, by simp [hi]⟩)
    · exact .inr (.inr ⟨rfl, hi, by rw [if_neg hi]; rfl⟩)
  · exact .inl ⟨rfl, by simp⟩

/-- SOLVE fails in one of three ways and else commits (43_delay_solver.md R186). -/
theorem solveOp_cases (p : Params) (s : State) :
    (elevationBad s.din = true ∧ solveOp p s = failSolve .eZenith s) ∨
    (elevationBad s.din = false ∧ validDipoles s.din = [] ∧ solveOp p s = failSolve .eEmpty s) ∨
    (elevationBad s.din = false ∧ validDipoles s.din ≠ [] ∧ strictBit s.din = true ∧
      overLimit s.din (solveResidual p s.din) ≠ [] ∧ solveOp p s = failSolve .eErrlim s) ∨
    (elevationBad s.din = false ∧ validDipoles s.din ≠ [] ∧
      (strictBit s.din = true → overLimit s.din (solveResidual p s.din) = []) ∧
      solveOp p s = respond .ok (BitVec.ofNat 32 (solveDisabled p s.din))
        (s.commit (solvedFine p s.din s.fine)
          (committedOut s.din s.dout (solveCoarse p s.din) (solveResidual p s.din) (solveDisabled p s.din)))) := by
  unfold solveOp
  split
  · simp_all
  · split
    · simp_all
    · split <;> simp_all

/-- REFINE fails in one of three ways and else commits, FINE unchanged (R189). -/
theorem refineOp_cases (p : Params) (s : State) :
    (elevationBad s.din = true ∧ refineOp p s = failSolve .eZenith s) ∨
    (elevationBad s.din = false ∧ validDipoles s.din = [] ∧ refineOp p s = failSolve .eEmpty s) ∨
    (elevationBad s.din = false ∧ validDipoles s.din ≠ [] ∧ strictBit s.din = true ∧
      overLimit s.din (refineResidual p s.din s.fine) ≠ [] ∧ refineOp p s = failSolve .eErrlim s) ∨
    (elevationBad s.din = false ∧ validDipoles s.din ≠ [] ∧
      (strictBit s.din = true → overLimit s.din (refineResidual p s.din s.fine) = []) ∧
      refineOp p s = respond .ok (BitVec.ofNat 32 (refineDisabled s.din s.fine))
        (s.commit s.fine
          (committedOut s.din s.dout (refineCoarse p s.din s.fine) (refineResidual p s.din s.fine)
            (refineDisabled s.din s.fine)))) := by
  unfold refineOp
  split
  · simp_all
  · split
    · simp_all
    · split <;> simp_all

/-- What one step can do (20_memory.md R67, 70_reset_and_hazards.md R250, R262). -/
theorem step_cases (s : State) :
    (s.pending = [] ∧ step s = .next s) ∨
    (∃ cw rest e, s.pending = .command cw :: rest ∧ decode cw = .error e ∧
      step s = .next (faultOut .fIllegal { s with pending := rest })) ∨
    (∃ cw rest i, s.pending = .command cw :: rest ∧ decode cw = .ok i ∧ step s = exec i { s with pending := rest }) ∨
    (∃ a rest, s.pending = a :: rest ∧ (∀ cw, a ≠ .command cw) ∧
      step s = .next (resetBlock { s with pending := rest })) := by
  unfold step takeArrival
  cases hp : s.pending with
  | nil => exact .inl ⟨rfl, rfl⟩
  | cons a rest =>
    cases a with
    | resetInput => exact .inr (.inr (.inr ⟨_, rest, rfl, by simp, rfl⟩))
    | commandCutByReset cw => exact .inr (.inr (.inr ⟨_, rest, rfl, by simp, rfl⟩))
    | command cw =>
      cases hd : decode cw with
      | error e => exact .inr (.inl ⟨cw, rest, e, rfl, hd, by simp [perform, runWord, hd, execIllegal]⟩)
      | ok i => exact .inr (.inr (.inl ⟨cw, rest, i, rfl, hd, by simp [perform, runWord, hd]⟩))

end Sys2Proof.Laws
end

