-- ==== Sys2Proof/Laws/PerInstr.lean ====
section
/-! SUPPORT. Laws stated per instruction, as syntax: the word of each instruction has every field that its form does
not use at zero, so the decoder does not refuse it for one (30_encoding.md R81). -/

namespace Sys2Proof.Laws

/-- The word of the instruction passes the check of the fields its form does not use (R81). -/
def UnusedFieldsZero.Statement (i : Instr) : Prop := unusedFieldError i.form (encode i) = none

theorem UnusedFieldsZero.nop : UnusedFieldsZero.Statement .nop := by
  simp [UnusedFieldsZero.Statement, unusedFieldError, encode, Instr.form, imm8Field_packWord, addrField_packWord,
    dataField_packWord]

theorem UnusedFieldsZero.rd (a : RegAddr) : UnusedFieldsZero.Statement (.rd a) := by
  simp [UnusedFieldsZero.Statement, unusedFieldError, encode, Instr.form, imm8Field_packWord, addrField_packWord,
    dataField_packWord]

theorem UnusedFieldsZero.wr (a : RegAddr) (d : Word) : UnusedFieldsZero.Statement (.wr a d) := by
  simp [UnusedFieldsZero.Statement, unusedFieldError, encode, Instr.form, imm8Field_packWord, addrField_packWord,
    dataField_packWord]

theorem UnusedFieldsZero.csclr : UnusedFieldsZero.Statement .csclr := by
  simp [UnusedFieldsZero.Statement, unusedFieldError, encode, Instr.form, imm8Field_packWord, addrField_packWord,
    dataField_packWord]

theorem UnusedFieldsZero.cspush (b : Byte) : UnusedFieldsZero.Statement (.cspush b) := by
  simp [UnusedFieldsZero.Statement, unusedFieldError, encode, Instr.form, imm8Field_packWord, addrField_packWord,
    dataField_packWord]

theorem UnusedFieldsZero.csrd8 : UnusedFieldsZero.Statement .csrd8 := by
  simp [UnusedFieldsZero.Statement, unusedFieldError, encode, Instr.form, imm8Field_packWord, addrField_packWord,
    dataField_packWord]

theorem UnusedFieldsZero.csrd16 : UnusedFieldsZero.Statement .csrd16 := by
  simp [UnusedFieldsZero.Statement, unusedFieldError, encode, Instr.form, imm8Field_packWord, addrField_packWord,
    dataField_packWord]

theorem UnusedFieldsZero.fenc : UnusedFieldsZero.Statement .fenc := by
  simp [UnusedFieldsZero.Statement, unusedFieldError, encode, Instr.form, imm8Field_packWord, addrField_packWord,
    dataField_packWord]

theorem UnusedFieldsZero.rxdata (b : Byte) : UnusedFieldsZero.Statement (.rxdata b) := by
  simp [UnusedFieldsZero.Statement, unusedFieldError, encode, Instr.form, imm8Field_packWord, addrField_packWord,
    dataField_packWord]

theorem UnusedFieldsZero.rxidle : UnusedFieldsZero.Statement .rxidle := by
  simp [UnusedFieldsZero.Statement, unusedFieldError, encode, Instr.form, imm8Field_packWord, addrField_packWord,
    dataField_packWord]

theorem UnusedFieldsZero.fdec : UnusedFieldsZero.Statement .fdec := by
  simp [UnusedFieldsZero.Statement, unusedFieldError, encode, Instr.form, imm8Field_packWord, addrField_packWord,
    dataField_packWord]

theorem UnusedFieldsZero.rxflush : UnusedFieldsZero.Statement .rxflush := by
  simp [UnusedFieldsZero.Statement, unusedFieldError, encode, Instr.form, imm8Field_packWord, addrField_packWord,
    dataField_packWord]

theorem UnusedFieldsZero.solve : UnusedFieldsZero.Statement .solve := by
  simp [UnusedFieldsZero.Statement, unusedFieldError, encode, Instr.form, imm8Field_packWord, addrField_packWord,
    dataField_packWord]

theorem UnusedFieldsZero.refine : UnusedFieldsZero.Statement .refine := by
  simp [UnusedFieldsZero.Statement, unusedFieldError, encode, Instr.form, imm8Field_packWord, addrField_packWord,
    dataField_packWord]

theorem UnusedFieldsZero.reset : UnusedFieldsZero.Statement .reset := by
  simp [UnusedFieldsZero.Statement, unusedFieldError, encode, Instr.form, imm8Field_packWord, addrField_packWord,
    dataField_packWord]

end Sys2Proof.Laws
end

