-- ==== Sys2Proof/Laws/Solver.lean ====
section
/-! SUPPORT. The delay solver's lists as sets of dipoles, its sums and its selection: cite these and do not unfold the
loops. -/

namespace Sys2Proof.Laws

open Sys2Proof.Machine

/-! ### The valid dipoles (43_delay_solver.md R170) -/

@[simp] theorem mem_validDipoles (d : SolverIn) (i : Dipole) : i ∈ validDipoles d ↔ isValid d i = true := by
  simp [validDipoles]

theorem validDipoles_nodup (d : SolverIn) : (validDipoles d).Nodup := (List.nodup_finRange 256).filter _

theorem validDipoles_toFinset (d : SolverIn) :
    (validDipoles d).toFinset = Finset.univ.filter (fun i => isValid d i = true) := by
  ext i
  simp

/-- Dipole `16·u + d` of unit `u` is in unit `u`, and every dipole of the unit is such a one (10_state.md R42). -/
theorem exists_dipoleOf (u : Unit16) (i : Dipole) : (∃ k : Unit16, dipoleOf u k = i) ↔ unitOf i = u := by
  constructor
  · rintro ⟨k, rfl⟩
    apply Fin.ext
    simp only [unitOf, dipoleOf]
    omega
  · rintro rfl
    refine ⟨⟨i.val % 16, by omega⟩, ?_⟩
    apply Fin.ext
    simp only [unitOf, dipoleOf]
    omega

theorem dipoleOf_injective (u : Unit16) : Function.Injective (dipoleOf u) := by
  intro a b h
  apply Fin.ext
  have := congrArg Fin.val h
  simp only [dipoleOf] at this
  omega

@[simp] theorem mem_unitDipoles (d : SolverIn) (u : Unit16) (i : Dipole) :
    i ∈ unitDipoles d u ↔ unitOf i = u ∧ isValid d i = true := by
  simp only [unitDipoles, List.mem_filter, List.mem_map, List.mem_finRange, true_and, exists_dipoleOf]

theorem unitDipoles_nodup (d : SolverIn) (u : Unit16) : (unitDipoles d u).Nodup :=
  ((List.nodup_finRange 16).map (dipoleOf_injective u)).filter _

theorem unitDipoles_toFinset (d : SolverIn) (u : Unit16) :
    (unitDipoles d u).toFinset = Finset.univ.filter (fun i => unitOf i = u ∧ isValid d i = true) := by
  ext i
  simp

/-! ### Sums and the maximum (R177, R184) -/

theorem sumOver_eq (f : Dipole → Int) (l : List Dipole) (h : l.Nodup) : sumOver f l = ∑ i ∈ l.toFinset, f i := by
  induction l with
  | nil => rfl
  | cons i is ih =>
    rw [List.nodup_cons] at h
    rw [sumOver, ih h.2, List.toFinset_cons, Finset.sum_insert (by simpa using h.1)]

theorem sumSquares_eq (r : Dipole → Int) (l : List Dipole) (h : l.Nodup) :
    sumSquares r l = ∑ i ∈ l.toFinset, (r i).natAbs ^ 2 := by
  induction l with
  | nil => rfl
  | cons i is ih =>
    rw [List.nodup_cons] at h
    rw [sumSquares, ih h.2, List.toFinset_cons, Finset.sum_insert (by simpa using h.1)]

theorem le_maxAbs (r : Dipole → Int) (l : List Dipole) : ∀ i ∈ l, (r i).natAbs ≤ maxAbs r l := by
  induction l with
  | nil => simp
  | cons j js ih =>
    intro i hi
    rw [maxAbs]
    rcases List.mem_cons.1 hi with rfl | hi
    · exact le_max_left _ _
    · exact (ih i hi).trans (le_max_right _ _)

theorem maxAbs_mem (r : Dipole → Int) (l : List Dipole) (h : l ≠ []) : ∃ i ∈ l, (r i).natAbs = maxAbs r l := by
  induction l with
  | nil => exact absurd rfl h
  | cons j js ih =>
    by_cases hj : js = []
    · exact ⟨j, by simp, by simp [hj, maxAbs]⟩
    · obtain ⟨i, hi, e⟩ := ih hj
      rcases le_total (r j).natAbs (maxAbs r js) with hle | hle
      · exact ⟨i, by simp [hi], by rw [maxAbs, max_eq_right hle, e]⟩
      · exact ⟨j, by simp, by rw [maxAbs, max_eq_left hle]⟩

/-! ### The candidates and the selection (R177, R178, R180) -/

/-- LO is at most HI (00_scope.md R9: the headroom is at most 127). -/
theorem coarseMin_le_coarseMax (p : Params) : coarseMin p ≤ coarseMax p := by
  have := p.h_le
  unfold coarseMin coarseMax
  omega

theorem naiveCoarse_range (p : Params) (d : SolverIn) (u : Unit16) :
    coarseMin p ≤ naiveCoarse p d u ∧ naiveCoarse p d u ≤ coarseMax p :=
  ⟨le_clamp _ _ _, clamp_le (coarseMin_le_coarseMax p)⟩

@[simp] theorem mem_intRange (lo hi x : Int) : x ∈ intRange lo hi ↔ lo ≤ x ∧ x ≤ hi := by
  simp only [intRange, List.mem_map, List.mem_range]
  constructor
  · rintro ⟨k, hk, rfl⟩
    omega
  · rintro ⟨h1, h2⟩
    exact ⟨(x - lo).toNat, by omega, by omega⟩

/-- The integers of a range come in increasing order, so the selection meets the lowest of equals first (R180). -/
theorem intRange_sorted (lo hi : Int) : (intRange lo hi).Pairwise (· < ·) := by
  unfold intRange
  rw [List.pairwise_map]
  exact List.pairwise_lt_range.imp (by omega)

theorem costLt_iff (x y : Cost) : costLt x y = true ↔ x.1 < y.1 ∨ (x.1 = y.1 ∧ x.2 < y.2) := by
  simp [costLt]

theorem costLt_eq_false (x y : Cost) : costLt x y = false ↔ y.1 < x.1 ∨ (y.1 = x.1 ∧ y.2 ≤ x.2) := by
  rw [← Bool.not_eq_true, costLt_iff]
  omega

/-- What the selection leaves: one of what it was given, below none of it, and strictly below all that stood before
it (R180). -/
theorem pickFrom_spec (cost : Int → Cost) (cs : List Int) : ∀ best : Int,
    (best :: cs).Pairwise (· < ·) →
    pickFrom cost best cs ∈ best :: cs ∧
    (∀ x ∈ best :: cs, costLt (cost x) (cost (pickFrom cost best cs)) = false) ∧
    (∀ x ∈ best :: cs, x < pickFrom cost best cs → costLt (cost (pickFrom cost best cs)) (cost x) = true) := by
  have irrefl : ∀ x : Cost, costLt x x = false := fun x => by simp [costLt_eq_false]
  have trans : ∀ x y z : Cost, costLt x y = true → costLt y z = true → costLt x z = true := fun x y z => by
    simp only [costLt_iff]
    omega
  induction cs with
  | nil =>
    intro best _
    simp [pickFrom, irrefl]
  | cons c cs ih =>
    intro best hs
    rw [List.pairwise_cons, List.pairwise_cons] at hs
    obtain ⟨hb, hc, hcs⟩ := hs
    have hbc := hb c (by simp)
    rw [pickFrom]
    split
    · rename_i h
      obtain ⟨h1, h2, h3⟩ := ih c (List.pairwise_cons.2 ⟨hc, hcs⟩)
      set r := pickFrom cost c cs
      have hrb : costLt (cost r) (cost best) = true := by
        by_cases hcr : c < r
        · exact trans _ _ _ (h3 c (by simp) hcr) h
        · have : r = c := by
            rcases List.mem_cons.1 h1 with e | e
            · exact e
            · have := hc r e
              omega
          rw [this]
          exact h
      refine ⟨List.mem_cons_of_mem _ h1, ?_, ?_⟩
      · intro x hx
        rcases List.mem_cons.1 hx with rfl | hx
        · rw [costLt_iff] at hrb
          rw [costLt_eq_false]
          omega
        · exact h2 x hx
      · intro x hx hlt
        rcases List.mem_cons.1 hx with rfl | hx
        · exact hrb
        · exact h3 x hx hlt
    · rename_i h
      rw [Bool.not_eq_true] at h
      obtain ⟨h1, h2, h3⟩ := ih best (List.pairwise_cons.2 ⟨fun x hx => hb x (by simp [hx]), hcs⟩)
      set r := pickFrom cost best cs
      refine ⟨?_, ?_, ?_⟩
      · rcases List.mem_cons.1 h1 with e | e
        · simp [e]
        · simp [e]
      · intro x hx
        rcases List.mem_cons.1 hx with rfl | hx
        · exact h2 x (by simp)
        · rcases List.mem_cons.1 hx with rfl | hx
          · have := h2 best (by simp)
            rw [costLt_eq_false] at this h ⊢
            omega
          · exact h2 x (by simp [hx])
      · intro x hx hlt
        rcases List.mem_cons.1 hx with rfl | hx
        · exact h3 x (by simp) hlt
        · rcases List.mem_cons.1 hx with rfl | hx
          · have hbr := h3 best (by simp) (by omega)
            rw [costLt_eq_false] at h
            rw [costLt_iff] at hbr ⊢
            omega
          · exact h3 x (by simp [hx]) hlt

/-- The naive candidate is one of the candidates, and all of them are in LO..HI, in increasing order (R178, R190). -/
theorem candidates_spec (p : Params) (d : SolverIn) (u : Unit16) :
    naiveCoarse p d u ∈ candidates p (optBit d) (naiveCoarse p d u) ∧
    (∀ x ∈ candidates p (optBit d) (naiveCoarse p d u), coarseMin p ≤ x ∧ x ≤ coarseMax p) ∧
    (candidates p (optBit d) (naiveCoarse p d u)).Pairwise (· < ·) := by
  have hr := naiveCoarse_range p d u
  unfold candidates window
  split
  · refine ⟨?_, fun x => ?_, intRange_sorted _ _⟩ <;> rw [mem_intRange] <;> omega
  · simp [hr]

/-- What either command chooses for a unit is in LO..HI (R178, R180). -/
theorem chooseCoarse_range (p : Params) (d : SolverIn) (cost : Int → Cost) (u : Unit16) :
    coarseMin p ≤ chooseCoarse p d cost u ∧ chooseCoarse p d cost u ≤ coarseMax p := by
  obtain ⟨h1, h2, h3⟩ := candidates_spec p d u
  unfold chooseCoarse
  cases hc : candidates p (optBit d) (naiveCoarse p d u) with
  | nil => simp [hc] at h1
  | cons c cs =>
    rw [hc] at h2 h3
    exact h2 _ (pickFrom_spec cost cs c h3).1

end Sys2Proof.Laws
end

