-- ==== Sys2Proof/WellFormed.lean ====
section
/-! DEFINITION. Which terms are well formed. An `Instr` always is: each operand has the width of its field. A line of
assembler is when each number in it is one that the syntax admits (30_encoding.md R93, R94). -/

namespace Sys2Proof

/-- Every `Instr` is well formed: its operands have the widths of the fields `imm8`, `addr`, `data` (R80, R81). -/
def Instr.wellFormed : Instr → Bool
  | .nop => true
  | .rd _ => true
  | .wr _ _ => true
  | .csclr => true
  | .cspush _ => true
  | .csrd8 => true
  | .csrd16 => true
  | .fenc => true
  | .rxdata _ => true
  | .rxidle => true
  | .fdec => true
  | .rxflush => true
  | .solve => true
  | .refine => true
  | .reset => true

/-- "A `byte` is a number 0..255" (R93). -/
def byteOk (n : Int) : Bool := 0 ≤ n && n ≤ 255

/-- "A `value` is a number `−2^31 .. 2^32 − 1`" (R93). -/
def valueOk (n : Int) : Bool := -2147483648 ≤ n && n ≤ 4294967295

/-- "A `reg` is a 16-bit address as a number, or a register name" (R93). An index in a name is in range by its type. -/
def AsmReg.wellFormed : AsmReg → Bool
  | .address n => n ≤ 65535
  | .named _ => true

/-- The operands of a line are ones that R93 and R94 admit; a list of operands has at least one (`v0`, `b0`). -/
def AsmLine.wellFormed : AsmLine → Bool
  | .nop => true
  | .rd r => r.wellFormed
  | .wr r v => r.wellFormed && valueOk v
  | .csclr => true
  | .cspush b => byteOk b
  | .csrd8 => true
  | .csrd16 => true
  | .fenc => true
  | .rxdata b => byteOk b
  | .rxidle => true
  | .fdec => true
  | .rxflush => true
  | .solve => true
  | .refine => true
  | .reset => true
  | .wrs r vs => r.wellFormed && !vs.isEmpty && vs.all valueOk
  | .cspushs bs => !bs.isEmpty && bs.all byteOk
  | .rxbytes bs => !bs.isEmpty && bs.all byteOk
  | .expect code v => byteOk code && valueOk v

end Sys2Proof
end

