-- ==== Sys2Proof/Machine/Assembler.lean ====
section
/-! DEFINITION. The assembler: lines to command words, and text to lines (30_encoding.md R93, R94). It is notation of
the host, not a part of the block: no step reads it (log 9). -/

namespace Sys2Proof.Machine

/-! ### Lines to instructions -/

/-- The address of a register operand (R93). -/
def asmRegNumber : AsmReg → Nat
  | .address n => n
  | .named r => regNumber r

/-- `wr reg+0, v0; wr reg+1, v1; ...` (R94): none if an address would pass 65535. -/
def expandWrs : Nat → List Int → Option (List Instr)
  | _, [] => some []
  | n, v :: vs =>
    if n ≤ 65535 then (expandWrs (n + 1) vs).map (fun is => .wr (BitVec.ofNat 16 n) (to32 v) :: is) else none

/-- The commands of a well-formed line: one for a command, a sequence for a pseudo-instruction, none for the
annotation `expect` (R93, R94). -/
def lineInstrs : AsmLine → Option (List Instr)
  | .nop => some [.nop]
  | .rd r => some [.rd (BitVec.ofNat 16 (asmRegNumber r))]
  | .wr r v => some [.wr (BitVec.ofNat 16 (asmRegNumber r)) (to32 v)]
  | .csclr => some [.csclr]
  | .cspush b => some [.cspush (BitVec.ofInt 8 b)]
  | .csrd8 => some [.csrd8]
  | .csrd16 => some [.csrd16]
  | .fenc => some [.fenc]
  | .rxdata b => some [.rxdata (BitVec.ofInt 8 b)]
  | .rxidle => some [.rxidle]
  | .fdec => some [.fdec]
  | .rxflush => some [.rxflush]
  | .solve => some [.solve]
  | .refine => some [.refine]
  | .reset => some [.reset]
  | .wrs r vs => expandWrs (asmRegNumber r) vs
  | .cspushs bs => some (bs.map fun b => .cspush (BitVec.ofInt 8 b))
  | .rxbytes bs => some (bs.map fun b => .rxdata (BitVec.ofInt 8 b))
  | .expect _ _ => some []

/-- The command words of a line; none for a line that is not well formed (R93). -/
def assemble (l : AsmLine) : Option (List PortWord) :=
  if l.wellFormed then (lineInstrs l).map (List.map encode) else none

/-! ### Text to lines -/

/-- A blank. -/
def isBlank (c : Char) : Bool := c == ' ' || c == '\t'

/-- The text without blanks at its two ends. -/
def trim (cs : List Char) : List Char := ((cs.dropWhile isBlank).reverse.dropWhile isBlank).reverse

/-- The pieces between separators: one more than there are separators. -/
def splitAtSep (sep : Char → Bool) : List Char → List (List Char)
  | [] => [[]]
  | c :: cs =>
    if sep c then [] :: splitAtSep sep cs
    else match splitAtSep sep cs with
      | [] => [[c]]
      | w :: ws => (c :: w) :: ws

/-- The value of a digit of a base up to 16, capitals and small letters alike. -/
def digitValue (base : Nat) (c : Char) : Option Nat :=
  let n := c.toNat
  let v := if 48 ≤ n ∧ n ≤ 57 then n - 48 else if 97 ≤ n ∧ n ≤ 102 then n - 87
    else if 65 ≤ n ∧ n ≤ 70 then n - 55 else 16
  if v < base then some v else none

/-- The value of a row of digits after the value `acc`. -/
def digitsValue (base : Nat) : Nat → List Char → Option Nat
  | acc, [] => some acc
  | acc, c :: cs =>
    match digitValue base c with
    | none => none
    | some v => digitsValue base (acc * base + v) cs

/-- "Numbers are decimal or `0x` hexadecimal" (R93). -/
def parseNat : List Char → Option Nat
  | [] => none
  | '0' :: 'x' :: [] => none
  | '0' :: 'x' :: cs => digitsValue 16 0 cs
  | cs => digitsValue 10 0 cs

/-- A number that may have a minus sign (R93). -/
def parseInt : List Char → Option Int
  | '-' :: cs => (parseNat cs).map (fun n => -(n : Int))
  | cs => (parseNat cs).map (fun n => (n : Int))

/-- The names of the registers that are not arrays (10_state.md R49). -/
def scalarNames : List (String × Reg) :=
  [("ID", .id), ("STATUS", .status), ("FAULT", .fault), ("CFG_START", .cfgStart), ("CFG_ESC", .cfgEsc),
   ("CFG_MASK", .cfgMask), ("CFG_FS", .cfgFs), ("CFG_SS", .cfgSs), ("CFG_H", .cfgH), ("CFG_CINV", .cfgCinv),
   ("CFG_RXCAP", .cfgRxcap), ("CS_SUM8", .csSum8), ("CS_SUM16", .csSum16), ("CS_CNT", .csCnt),
   ("TX_CTRL", .txCtrl), ("TX_CMD", .txCmd), ("TX_LEN", .txLen), ("TXRAW_LEN", .txrawLen),
   ("RX_CTRL", .rxCtrl), ("RX_CMD", .rxCmd), ("RX_LEN", .rxLen), ("RX_FLAGS", .rxFlags), ("RX_CS8", .rxCs8),
   ("RX_CS16", .rxCs16), ("RXBUF_LEN", .rxbufLen), ("RX_IDLE", .rxIdle),
   ("AZ", .az), ("EL", .el), ("OFF_X", .offX), ("OFF_Y", .offY), ("OFF_Z", .offZ), ("ERRLIM", .errlim),
   ("SCTL", .sctl), ("DISABLED", .disabled), ("MAXERR", .maxerr), ("SUMSQ0", .sumsq0), ("SUMSQ1", .sumsq1),
   ("SUMSQ2", .sumsq2)]

/-- An index below a bound. -/
def indexBelow (len n : Nat) : Option (Fin len) := if h : n < len then some ⟨n, h⟩ else none

/-- The register of an array by name and index (10_state.md R49). -/
def arrayReg (name : List Char) (n : Nat) : Option Reg :=
  if name == "TX_PAY".toList then (indexBelow 255 n).map .txPay
  else if name == "TXRAW".toList then (indexBelow 523 n).map .txraw
  else if name == "RX_PAY".toList then (indexBelow 255 n).map .rxPay
  else if name == "PVALID".toList then (indexBelow 8 n).map .pvalid
  else if name == "CORR".toList then (indexBelow 16 n).map .corr
  else if name == "COARSE".toList then (indexBelow 16 n).map .coarse
  else if name == "POS_X".toList then (indexBelow 256 n).map .posX
  else if name == "POS_Y".toList then (indexBelow 256 n).map .posY
  else if name == "POS_Z".toList then (indexBelow 256 n).map .posZ
  else if name == "FINE".toList then (indexBelow 256 n).map .fine
  else if name == "ERR".toList then (indexBelow 256 n).map .err
  else none

/-- A register operand: a number, a name, or a name "with an index in brackets" (R93). -/
def parseReg (cs : List Char) : Option AsmReg :=
  match parseNat cs with
  | some n => some (.address n)
  | none =>
    match splitAtSep (· == '[') cs with
    | [name] => (scalarNames.find? fun x => x.1.toList == name).map (fun x => .named x.2)
    | [name, index] =>
      match index.reverse with
      | ']' :: digits =>
        match parseNat digits.reverse with
        | some n => (arrayReg name n).map .named
        | none => none
      | _ => none
    | _ => none

/-- The lines without operands, by mnemonic (R93). -/
def plainLines : List (String × AsmLine) :=
  [("nop", .nop), ("csclr", .csclr), ("csrd8", .csrd8), ("csrd16", .csrd16), ("fenc", .fenc), ("rxidle", .rxidle),
   ("fdec", .fdec), ("rxflush", .rxflush), ("solve", .solve), ("refine", .refine), ("reset", .reset)]

/-- All of a list, or none if one is missing. -/
def allSome {α : Type} : List (Option α) → Option (List α)
  | [] => some []
  | none :: _ => none
  | some x :: xs => (allSome xs).map (x :: ·)

/-- A line from its mnemonic and the text after it: operands "separated by commas" (R93), or by blanks where R94
writes them so. -/
def parseCommand (name rest : List Char) : Option AsmLine :=
  let commas := (splitAtSep (· == ',') rest).map trim
  let blanks := (splitAtSep isBlank rest).filter (fun w => !w.isEmpty)
  if name == "rd".toList then
    match commas with
    | [r] => (parseReg r).map .rd
    | _ => none
  else if name == "wr".toList then
    match commas with
    | [r, v] => (parseReg r).bind fun r => (parseInt v).map (.wr r)
    | _ => none
  else if name == "cspush".toList then
    match commas with
    | [b] => (parseInt b).map .cspush
    | _ => none
  else if name == "rxdata".toList then
    match commas with
    | [b] => (parseInt b).map .rxdata
    | _ => none
  else if name == "wrs".toList then
    match commas with
    | r :: vs => (parseReg r).bind fun r => (allSome (vs.map parseInt)).map (.wrs r)
    | [] => none
  else if name == "cspushs".toList then (allSome (blanks.map parseInt)).map .cspushs
  else if name == "rxbytes".toList then (allSome (blanks.map parseInt)).map .rxbytes
  else if name == "expect".toList then
    match commas with
    | [c, v] => (parseInt c).bind fun c => (parseInt v).map (.expect c)
    | _ => none
  else if rest.isEmpty then (plainLines.find? fun x => x.1.toList == name).map (·.2)
  else none

/-- "One command per line ... `;` starts a comment" (R93): the line, or nothing for a line with only a comment. -/
def parseLine (text : List Char) : Option (Option AsmLine) :=
  let body := trim (text.takeWhile (· != ';'))
  if body.isEmpty then some none
  else (parseCommand (body.takeWhile (!isBlank ·)) (trim (body.dropWhile (!isBlank ·)))).map some

/-- The command words of one line of text; none where the text is not a line of the syntax (R93, R94). -/
def assembleText (text : String) : Option (List PortWord) :=
  match parseLine text.toList with
  | none => none
  | some none => some []
  | some (some l) => assemble l

end Sys2Proof.Machine
end

