-- ==== Sys2Proof/Tests/Slice0.lean ====
section
/-! SUPPORT. Tests. Expected values come from 30_encoding.md R93 and 95_test_vectors.md; the vectors there use the
reference parameters P0 of 93_implementation_defined.md, which are the defaults of `Params` here. The second half gives,
for each statement with hypotheses, a state and operands that meet them. -/

namespace Sys2Proof.Tests

set_option Elab.async false

open Sys2Proof.Machine

/-- The reference parameters P0. -/
def p0 : Params := {}

/-- The reset state with these bytes received and this count of idle reads. -/
def received (buf : List Byte) (idle : BitVec 2) : State := State.reset.setRxBuf buf idle

/-- The reset state with these solver inputs. -/
def solving (d : SolverIn) : State := { State.reset with din := d }

/-- The reset state with these arrivals. -/
def waiting (a : List Arrival) : State := { State.reset with pending := a }

/-- The code and the value of the last response word. -/
def answer (s : State) : Option (Nat × Nat) :=
  s.responses.getLast?.map fun w => ((w.extractLsb' 0 8).toNat, (w.extractLsb' 32 32).toNat)

/-- The state after an instruction. -/
def after (i : Instr) (s : State) : State :=
  match exec i s with
  | .next t => t
  | .fault _ => s
  | .refused _ => s

/-! ### WellFormed refuses ill-formed terms (R93, R94) -/

theorem test_wellFormed_instr : (Instr.wr 0xFFFF 0xFFFFFFFF).wellFormed = true := by decide

theorem test_byte_256_refused : (AsmLine.cspush 256).wellFormed = false := by decide

theorem test_byte_negative_refused : (AsmLine.rxdata (-1)).wellFormed = false := by decide

theorem test_value_too_large_refused : (AsmLine.wr (.named .el) 4294967296).wellFormed = false := by decide

theorem test_value_too_small_refused : (AsmLine.wr (.named .el) (-2147483649)).wellFormed = false := by decide

theorem test_address_65536_refused : (AsmLine.rd (.address 65536)).wellFormed = false := by decide

theorem test_address_65535_accepted : (AsmLine.rd (.address 65535)).wellFormed = true := by decide

theorem test_wrs_without_values_refused : (AsmLine.wrs (.named .el) []).wellFormed = false := by decide

theorem test_cspushs_without_bytes_refused : (AsmLine.cspushs []).wellFormed = false := by decide

theorem test_rxbytes_bad_byte_refused : (AsmLine.rxbytes [1, 256]).wellFormed = false := by decide

theorem test_expect_bad_code_refused : (AsmLine.expect 256 0).wellFormed = false := by decide

/-! ### Decoding: words written out from R80 and R83, or printed in R93 and 95_test_vectors.md -/

theorem test_decode_host_words :
    decode 0x0000000000000000 = .ok .nop ∧ decode 0x0000000000010001 = .ok (.rd 0x0001) ∧
    decode 0x005A000010010002 = .ok (.wr 0x1001 0x005A0000) ∧ decode 0x00000000000000FF = .ok .reset := by decide

theorem test_decode_csu_words :
    decode 0x0000000000000010 = .ok .csclr ∧ decode 0x0000000000007E11 = .ok (.cspush 0x7E) ∧
    decode 0x0000000000000012 = .ok .csrd8 ∧ decode 0x0000000000000013 = .ok .csrd16 := by decide

theorem test_decode_fcu_words :
    decode 0x0000000000000020 = .ok .fenc ∧ decode 0x0000000000007E21 = .ok (.rxdata 0x7E) ∧
    decode 0x0000000000000022 = .ok .rxidle ∧ decode 0x0000000000000023 = .ok .fdec ∧
    decode 0x0000000000000024 = .ok .rxflush := by decide

theorem test_decode_dsu_words :
    decode 0x0000000000000030 = .ok .solve ∧ decode 0x0000000000000031 = .ok .refine := by decide

theorem test_decode_refuses :
    decode 0x0000000000000040 = .error (.unknownOp 0x40) ∧ decode 0x0000000000000123 = .error .nonzeroImm8 ∧
    decode 0x0000000000010023 = .error .nonzeroAddr ∧ decode 0x0000000100000010 = .error .nonzeroData ∧
    decode 0x0000000000030102 = .error .nonzeroImm8 ∧ decode 0x0000000100010001 = .error .nonzeroData := by decide

theorem test_decode_table_word : decodeTableWord 64 0x0000000000007E11 = some (.cspush 0x7E) := by decide

theorem test_fetched_word_runs :
    step (State.reset.withFetchWord 64 0x0000000000007E11) = exec (.cspush 0x7E) State.reset := rfl

/-! ### The assembler (R93, R94) -/

theorem test_assemble_fdec : assembleText "fdec" = some [0x0000000000000023] := by decide +kernel

theorem test_assemble_cspush : assembleText "cspush 0x7E" = some [0x0000000000007E11] := by decide +kernel

theorem test_assemble_rd : assembleText "rd STATUS ; the status" = some [0x0000000000010001] := by decide +kernel

theorem test_assemble_wr : assembleText "wr EL, 0x005A0000" = some [0x005A000010010002] := by decide +kernel

theorem test_assemble_negative : assembleText "wr CORR[15], -134217727" = some [0xF8000001102F0002] := by
  decide +kernel

theorem test_assemble_array : asmRegNumber (.named (.posX 17)) = 0x1111 := by decide

theorem test_assemble_wrs :
    assembleText "wrs POS_X[0], 1, -1" = some [0x0000000111000002, 0xFFFFFFFF11010002] := by decide +kernel

theorem test_assemble_rxbytes :
    assembleText "rxbytes 0x7E 1" = some [0x0000000000007E21, 0x0000000000000121] := by decide +kernel

/-! ### Host access (95_test_vectors.md section 5) -/

theorem test_nop_answers : answer (after .nop State.reset) = some (0x00, 0) := by decide +kernel

theorem test_rd_id_and_cfg : answer (after (.rd 0x0000) State.reset) = some (0x00, 0x45444131) ∧
    (readReg p0 State.reset .cfgCinv).toNat = 0xD07A4157 ∧ (readReg p0 State.reset .cfgFs).toNat = 435 := by
  decide +kernel

theorem test_rd_unmapped : answer (after (.rd 0x0003) State.reset) = some (0x81, 0) ∧
    (after (.rd 0x0003) State.reset).fault = 0b00010 := by decide +kernel

theorem test_wr_largest_position :
    (after (.wr 0x1100 0x0FFFFFFF) State.reset).din.posX[0] = 0x0FFFFFFF := by decide +kernel

theorem test_wr_corr_out_of_range : answer (after (.wr 0x102F 0xF8000000) State.reset) = some (0x82, 0) := by
  decide +kernel

theorem test_reset_clears_fault :
    (after .reset { State.reset with fault := 7 }).fault = 0 := by decide +kernel

/-! ### The checksum unit (section 2) -/

theorem test_csum8_boundary :
    csum8 [0xFF, 0x00, 0x00] = 0x00 ∧ csum8 [0xFE, 0x00, 0x02] = 0x01 ∧ csum8 [0xFF, 0xFF, 0x01] = 0x00 ∧
    csum8 [] = 0xFF := by decide

theorem test_csum16_folds :
    csum16 [0xFF, 0xFF, 0xFF, 0xFF] = 0x0000 ∧ csum16 [0xFF, 0xFF, 0xFF, 0xFF, 0x01, 0x00] = 0xFFFE ∧
    csum16 [0x01, 0x02, 0x03] = 0xFDFB := by decide +kernel

theorem test_csclr : (after .csclr (State.reset.setCsu ⟨1, 2, 3⟩)).csu = ⟨0, 0, 0⟩ := by decide +kernel

theorem test_cspush_second_byte :
    (after (.cspush 0x7D) (State.reset.setCsu ⟨0x7E, 0x7E, 1⟩)).csu = ⟨0xFB, 0x7D7E, 2⟩ := by decide +kernel

theorem test_cspush_overflow :
    answer (after (.cspush 0x01) (State.reset.setCsu ⟨5, 6, 65535⟩)) = some (0x84, 0) ∧
    (after (.cspush 0x01) (State.reset.setCsu ⟨5, 6, 65535⟩)).csu = ⟨5, 6, 65535⟩ := by decide +kernel

theorem test_csrd8 : answer (after .csrd8 (State.reset.setCsu ⟨511, 0, 3⟩)) = some (0x00, 0x00) := by decide +kernel

theorem test_csrd16 : answer (after .csrd16 (State.reset.setCsu ⟨0, 0x1FFFF, 6⟩)) = some (0x00, 0xFFFE) := by
  decide +kernel

/-! ### The frame codec (sections 3 and 4) -/

/-- The staged packet of vector F3. -/
def stagedF3 : State :=
  { State.reset with tx := { State.reset.tx with
      ctrl := 0x90, cmd := 0x21, len := 4, pay := (((State.reset.tx.pay.set 0 0x7E).set 1 0x7D).set 3 0x20) } }

theorem test_fenc_F3 :
    (fencOp p0 stagedF3).tx.raw.toList.take 14 =
      [0x7E, 0x90, 0x21, 0x04, 0x4A, 0x7D, 0x5E, 0x7D, 0x5D, 0x00, 0x20, 0x81, 0x62, 0x00] ∧
    answer (fencOp p0 stagedF3) = some (0x00, 13) := by decide +kernel

theorem test_stuff_F5 :
    stuff p0 (image p0 0x00 0x00 [0x82]) = [0x7E, 0x00, 0x00, 0x01, 0xFE, 0x82, 0x7D, 0x5D, 0xFF] := by decide +kernel

theorem test_rxdata : answer (rxdataOp p0 0x7E State.reset) = some (0x00, 1) := by decide +kernel

theorem test_rxidle : answer (after .rxidle (received [] 2)) = some (0x00, 2) := by decide +kernel

theorem test_rxflush : answer (after .rxflush (received [1, 2, 3, 4, 5, 6] 1)) = some (0x00, 6) := by decide +kernel

theorem test_fdec_D3 :
    (fdecOp p0 (received [0x7E, 0x90, 0x21, 0x04, 0x4A, 0x7D, 0x5E, 0x7D, 0x5D, 0x00, 0x20, 0x81, 0x62] 0)).rx.cs16
      = 0x6281 ∧
    answer (fdecOp p0 (received [0x7E, 0x90, 0x21, 0x04, 0x4A, 0x7D, 0x5E, 0x7D, 0x5D, 0x00, 0x20, 0x81, 0x62] 0))
      = some (0x00, 0x7) := by decide +kernel

theorem test_fdec_D7_corrupt_D2_waits :
    answer (fdecOp p0 (received [0x7E, 0x10, 0x30, 0x03, 0xBC, 0x11, 0x23, 0x33, 0xBB, 0xDD] 0)) = some (0x03, 0x5) ∧
    answer (fdecOp p0 (received [0x7E, 0x90, 0x21, 0x04, 0x4A, 0x7D] 0)) = some (0x01, 0) ∧
    (fdecOp p0 (received [0x7E, 0x90, 0x21, 0x04, 0x4A, 0x7D] 0)).rx.buf.length = 6 := by decide +kernel

/-! ### The delay solver (section 6) -/

/-- One valid dipole, number 0, at (2 m, 1 m, 0), CLIP on (section 6.1). -/
def oneDipole : SolverIn :=
  { State.reset.din with
    errlim := 100000, sctl := 2, pvalid := State.reset.din.pvalid.set 0 1,
    posX := State.reset.din.posX.set 0 0x00020000, posY := State.reset.din.posY.set 0 0x00010000 }

/-- One valid dipole at the origin, at the zenith, with this correction, control and limit (section 6.1). -/
def atOrigin (v : Word) (ctl : BitVec 3) (lim : Word) : SolverIn :=
  { State.reset.din with
    el := 0x005A0000, errlim := lim, sctl := ctl, pvalid := State.reset.din.pvalid.set 0 1,
    corr := State.reset.din.corr.set 0 v }

theorem test_solve_azimuth_90 :
    (solveOp p0 (solving { oneDipole with az := 0x005A0000 })).dout.coarse[0].toInt = 73 ∧
    (solveOp p0 (solving { oneDipole with az := 0x005A0000 })).dout.err[0].toInt = -45 := by decide +kernel

theorem test_solve_sentinel :
    (solveOp p0 (solving (atOrigin (to32 (-20000)) 6 1000))).fine[0].toInt = 16 ∧
    answer (solveOp p0 (solving (atOrigin (to32 (-20000)) 6 1000))) = some (0x00, 1) := by decide +kernel

theorem test_refine_all_sentinels :
    (refineOp p0 { solving (atOrigin 0 6 0) with fine := State.reset.fine.set 0 16 }).dout.coarse[0].toInt = -6 ∧
    answer (refineOp p0 { solving (atOrigin 0 6 0) with fine := State.reset.fine.set 0 16 }) = some (0x00, 1) := by
  decide +kernel

theorem test_refine_zenith_first :
    answer (refineOp p0 (solving { State.reset.din with el := 0xFFFFFFFF })) = some (0x10, 0) := by decide +kernel

/-- The bias of R193: -16 is sent as 0, the sentinel as 32, and a coarse delay of -128 as 0. -/
theorem test_transport_bias : transportFine fineMin = 0 ∧ transportFine fineMax = 31 ∧ transportFine sentinel = 32 ∧
    transportCoarse (-128) = 0 ∧ transportCoarse 127 = 255 := by decide

/-! ### Witnesses: for each statement with hypotheses, a state and operands that meet them, at boundary values -/

/-- For StepRunsDecodedInstruction, EveryCommandIsAnsweredOnce. -/
theorem test_witness_step_runs_decoded :
    (waiting [.command 0x0000000000000020]).pending = .command 0x0000000000000020 :: [] ∧
    decode 0x0000000000000020 = .ok .fenc := by decide +kernel

/-- For IllegalWordFaults, EveryCommandIsAnsweredOnce. -/
theorem test_witness_illegal_word :
    (waiting [.command 0x0000000000000040]).pending = .command 0x0000000000000040 :: [] ∧
    decode 0x0000000000000040 = .error (.unknownOp 0x40) := by decide +kernel

/-- For EncodeDecodeRoundTrip. -/
theorem test_witness_word_decodes : decode 0x00000000FFFF0001 = .ok (.rd 0xFFFF) := by decide

/-- For HardwareResetAndIdle, one for each clause. -/
theorem test_witness_reset_arrivals :
    (waiting [.resetInput]).pending = .resetInput :: [] ∧
    (waiting [.commandCutByReset 0x30]).pending = .commandCutByReset 0x30 :: [] ∧
    State.reset.pending = [] := by decide +kernel

/-- For NopOnlyAnswers. -/
theorem test_witness_nop_with_a_field : opField 0x0000000100000000 = 0 ∧ (0x0000000100000000 : PortWord) ≠ 0 := by
  decide

/-- For FaultsArePrecise: a code of each kind, and an instruction other than RESET. -/
theorem test_witness_fault_code_and_ok_code :
    Code.fAddr.bits.getLsbD 7 = true ∧ Code.corrupt.bits.getLsbD 7 = false ∧ Instr.fdec ≠ .reset := by decide

/-- For RdAnswersTheRegister: unmapped addresses next to the ends of the map hold no register. -/
theorem test_witness_rd_unmapped : (∀ r, (0x0003 : RegAddr) ≠ regAddr r) ∧ (∀ r, (0x1600 : RegAddr) ≠ regAddr r) ∧
    (∀ r, (0xFFFF : RegAddr) ≠ regAddr r) := by
  refine ⟨fun r => ?_, fun r => ?_, fun r => ?_⟩ <;>
  · intro h
    have := congrArg BitVec.toNat h
    cases r <;> simp [regAddr, regNumber] at this <;> omega

/-- For WrStoresALegalValue, at the ends of the ranges. -/
theorem test_witness_wr_legal :
    access .sctl = .rw ∧ legalValue .sctl 7 = true ∧ access .txLen = .rw ∧ legalValue .txLen 255 = true ∧
    access .offX = .rw ∧ legalValue .offX (to32 (2 ^ 28 - 1)) = true ∧ legalValue .offX (to32 (-2 ^ 28 + 1)) = true ∧
    access (.corr 15) = .rw ∧ legalValue (.corr 15) (to32 (-2 ^ 27 + 1)) = true ∧
    access (.fine 0) = .rw ∧ legalValue (.fine 0) (to32 (-16)) = true ∧ legalValue (.fine 0) 16 = true ∧
    access .el = .rw ∧ legalValue .el 0xFFFFFFFF = true ∧ Reg.el ≠ .sctl ∧ Reg.el ≠ .status := by decide +kernel

/-- For WrOutOfRangeFaults, one beyond the ends of the ranges. -/
theorem test_witness_wr_out_of_range :
    access .sctl = .rw ∧ legalValue .sctl 8 = false ∧ access .txLen = .rw ∧ legalValue .txLen 256 = false ∧
    access .offX = .rw ∧ legalValue .offX (to32 (2 ^ 28)) = false ∧
    access (.corr 15) = .rw ∧ legalValue (.corr 15) (to32 (-2 ^ 27)) = false ∧
    access (.fine 0) = .rw ∧ legalValue (.fine 0) 17 = false ∧ legalValue (.fine 0) (to32 (-17)) = false := by
  decide +kernel

/-- For WrToReadOnlyOrUnmappedFaults: an unmapped address, and the address of a read-only register. -/
theorem test_witness_wr_not_writable :
    (∀ r, (0x0003 : RegAddr) = regAddr r → access r = .ro) ∧ (∀ r, regAddr .id = regAddr r → access r = .ro) := by
  refine ⟨fun r h => absurd h (test_witness_rd_unmapped.1 r), fun r h => ?_⟩
  have := congrArg BitVec.toNat h
  cases r <;> simp [regAddr, regNumber] at this <;> first | rfl | omega

/-- For LegalValuesByRegister: a register of each kind. -/
theorem test_witness_legal_values : Reg.txLen ∈ [Reg.txCtrl, .txCmd, .txLen] ∧ Reg.errlim ∈ [Reg.az, .el, .errlim] ∧
    Reg.offZ ∈ [Reg.offX, .offY, .offZ] ∧ access .id = .ro := by decide

/-- For RegisterMapIsExact, at both ends of the map. -/
theorem test_witness_register_map : regAt 0x0000 = some .id ∧ regAt 0x15FF = some (.err 255) := by decide +kernel

/-- For ResetValuesOfEveryRegister. -/
theorem test_witness_reset_values : Reg.fault ∉ [Reg.id, .cfgStart, .cfgEsc, .cfgMask, .cfgFs, .cfgSs, .cfgH,
    .cfgCinv, .cfgRxcap] := by decide

/-- For Csum8FoldsOrComplements: sums of 255 and 256. -/
theorem test_witness_csum8 :
    (([0xFF] : List Byte).map BitVec.toNat).sum ≤ 255 ∧ 255 < (([0xFF, 0x01] : List Byte).map BitVec.toNat).sum := by
  decide

/-- For Csum16FoldsEveryCarry: both sides of 65535, and a payload of 255 bytes. -/
theorem test_witness_csum16 : 0xFFFF ≤ 0xFFFF ∧ 0xFFFF < 0x10000 ∧ (List.replicate 255 (0xFF : Byte)).length ≤ 255 := by
  decide +kernel

/-- For CspushAbsorbsOneByte: counts of 65534 and 65535, sequences of 0 and 65535 bytes. -/
theorem test_witness_cspush : (State.reset.setCsu ⟨0, 0, 65534⟩).csu.cnt ≠ 65535 ∧
    (State.reset.setCsu ⟨0, 0, 65535⟩).csu.cnt = 65535 ∧ ([] : List Byte).length ≤ 65535 ∧
    (List.replicate 65535 (0xFF : Byte)).length ≤ 65535 :=
  ⟨by decide +kernel, by decide +kernel, by decide, by rw [List.length_replicate]⟩

/-- For Csrd8AnswersTheSum, Csrd16AnswersTheFoldedSum. -/
theorem test_witness_csrd_sums :
    (State.reset.setCsu ⟨511, 0x1FFFF, 6⟩).csu.sum8.toNat = (([0xFF, 0xFF, 0x01] : List Byte).map BitVec.toNat).sum ∧
    (State.reset.setCsu ⟨255, 0x1FFFF, 6⟩).csu.sum8.toNat = (([0xFF] : List Byte).map BitVec.toNat).sum ∧
    (State.reset.setCsu ⟨511, 0x1FFFF, 6⟩).csu.sum16.toNat = wsum16 [0xFF, 0xFF, 0xFF, 0xFF, 0x01, 0x00] := by
  decide +kernel

/-- For PushedBytesAreChecksummed. -/
theorem test_witness_pushed_bytes : ([0x7E, 0x7D] : List Byte).length ≤ 65535 ∧
    (waiting [.command 0x0000000000007E11, .command 0x0000000000007D11]).csu = ⟨0, 0, 0⟩ ∧
    (waiting [.command 0x0000000000007E11, .command 0x0000000000007D11]).pending =
      ([0x7E, 0x7D] : List Byte).map (fun b => Arrival.command (encode (.cspush b))) := by decide +kernel

/-- For ImageHasTheFrameLayout, RawFrameHoldsStartOnce, Csum16FoldsEveryCarry. -/
theorem test_witness_payload_lengths : ([] : List Byte).length ≤ 255 ∧
    (List.replicate 255 (0x7E : Byte)).length ≤ 255 ∧ List.replicate 255 (0x7E : Byte) ≠ [] := by decide +kernel

/-- For RxdataAppendsOneByte: an empty and a full buffer, on any instance. -/
theorem test_witness_rxdata : State.reset.rx.buf.length ≠ Config.params.rxbufCap ∧
    (received (List.replicate Config.params.rxbufCap 0) 0).rx.buf.length = Config.params.rxbufCap := by
  have := Config.params.rxbufCap_ge
  constructor
  · simp [State.reset]
    omega
  · exact List.length_replicate

/-- The scan of a short frame with these four bytes after the START, on any instance. -/
theorem scan_short_frame (p : Params) (a b c : Byte) :
    scan p (p.start :: ([a, b, 0, c].flatMap (stuffByte p))) =
      ⟨[p.start, a, b, 0, c], 1 + ([a, b, 0, c].flatMap (stuffByte p)).length, true⟩ := by
  have e : ([a, b, 0, c].flatMap (stuffByte p)) =
      stuffByte p a ++ (stuffByte p b ++ (stuffByte p 0 ++ (stuffByte p c ++ []))) := by simp
  rw [e, scan, Laws.scanLoop_stuffByte, Laws.scanLoop_stuffByte, Laws.scanLoop_stuffByte, Laws.scanLoop_stuffByte,
    Laws.scanLoop_full]
  · simp [Nat.add_assoc]
  all_goals simp [expectedSize, totalSize]

/-- The scan of a long frame with a payload of one byte, on any instance. -/
theorem scan_long_frame (p : Params) (a b c x y z : Byte) :
    scan p (p.start :: ([a, b, 1, c, x, y, z].flatMap (stuffByte p))) =
      ⟨[p.start, a, b, 1, c, x, y, z], 1 + ([a, b, 1, c, x, y, z].flatMap (stuffByte p)).length, true⟩ := by
  have e : ([a, b, 1, c, x, y, z].flatMap (stuffByte p)) = stuffByte p a ++ (stuffByte p b ++ (stuffByte p 1 ++
      (stuffByte p c ++ (stuffByte p x ++ (stuffByte p y ++ (stuffByte p z ++ [])))))) := by simp
  rw [e, scan, Laws.scanLoop_stuffByte, Laws.scanLoop_stuffByte, Laws.scanLoop_stuffByte, Laws.scanLoop_stuffByte,
    Laws.scanLoop_stuffByte, Laws.scanLoop_stuffByte, Laws.scanLoop_stuffByte, Laws.scanLoop_full]
  · simp [Nat.add_assoc]
  all_goals simp [expectedSize, totalSize]

/-- A state whose buffer holds a START and the escaped bytes after it, on the model's own instance. -/
def framed (us : List Byte) : State := received (Config.params.start :: us.flatMap (stuffByte Config.params)) 0

/-- The buffer of such a state from its first START on. -/
theorem framed_resync (us : List Byte) : (framed us).rx.buf.dropWhile (fun b => b != Config.params.start) =
    Config.params.start :: us.flatMap (stuffByte Config.params) := Laws.resync_start _ _

/-- For FdecDeliversAWholeFrame: a short frame with a good and with a bad header checksum, and a long frame. -/
theorem test_witness_fdec_delivers :
    (∃ j, scan Config.params ((framed [0, 0, 0, 0xFF]).rx.buf.dropWhile (fun b => b != Config.params.start)) =
      ⟨[Config.params.start, 0, 0, 0, 0xFF], j, true⟩) ∧
    (∃ j, scan Config.params ((framed [0, 0, 0, 0xFE]).rx.buf.dropWhile (fun b => b != Config.params.start)) =
      ⟨[Config.params.start, 0, 0, 0, 0xFE], j, true⟩) ∧
    (∃ j, scan Config.params ((framed [0, 0, 1, 0xFE, 1, 0xFE, 0xFF]).rx.buf.dropWhile
      (fun b => b != Config.params.start)) = ⟨[Config.params.start, 0, 0, 1, 0xFE, 1, 0xFE, 0xFF], j, true⟩) ∧
    csum8 [0, 0, 0] = 0xFF ∧ csum8 [0, 0, 1] = 0xFE ∧ csum16 [1] = 0xFFFE := by
  refine ⟨⟨_, (congrArg _ (framed_resync _)).trans (scan_short_frame _ _ _ _)⟩,
    ⟨_, (congrArg _ (framed_resync _)).trans (scan_short_frame _ _ _ _)⟩,
    ⟨_, (congrArg _ (framed_resync _)).trans (scan_long_frame _ _ _ _ _ _ _)⟩,
    by decide, by decide, by decide⟩

/-- For FdecTimesOutOrWaits: an empty buffer, and one that holds only a START, with RX_IDLE at 2 and at 1. -/
theorem test_witness_fdec_incomplete :
    (scan Config.params ((received [] 2).rx.buf.dropWhile (fun b => b != Config.params.start))).complete = false ∧
    (scan Config.params ((received [Config.params.start] 1).rx.buf.dropWhile
      (fun b => b != Config.params.start))).complete = false ∧
    (received [] 2).rx.idle = 2 ∧ (received [Config.params.start] 1).rx.idle ≠ 2 :=
  ⟨rfl, (congrArg (fun b => (scan Config.params b).complete) (Laws.resync_start _ _)).trans rfl, rfl, by
    show (1 : BitVec 2) ≠ 2
    decide⟩

/-- For EncodedFrameDecodesToItself: payloads of 0 and of 255 bytes. -/
theorem test_witness_encoded_frame : Config.params.start ∉ ([] : List Byte) ∧
    (received ([] ++ stuff Config.params (image Config.params 1 2 []) ++ [3]) 0).rx.buf =
      [] ++ stuff Config.params (image Config.params 1 2 []) ++ [3] ∧
    (received ([] ++ stuff Config.params (image Config.params 1 2 (List.replicate 255 0x7E)) ++ []) 0).rx.buf =
      [] ++ stuff Config.params (image Config.params 1 2 (List.replicate 255 0x7E)) ++ [] :=
  ⟨by simp, rfl, rfl⟩

/-- A received byte that stands for itself. -/
def plain (b : Byte) : Byte × Bool := (b, false)

/-- The pieces of a short frame with a bad header checksum and a raw START as its control byte. -/
def shortPieces : List (Byte × Bool) := [plain 0x7E, plain 0x05, plain 0, plain 0]

/-- The pieces of a long frame of this length byte with this many bytes after the header, all of them escaped. -/
def longPieces (n : Byte) (k : Nat) : List (Byte × Bool) :=
  [plain 1, plain 2, plain n, plain 0] ++ List.replicate k (0x5D, true)

/-- What the pieces stand for, behind a START. -/
def pieceBytes (cs : List (Byte × Bool)) : List Byte :=
  p0.start :: cs.map (fun c => if c.2 then c.1 ^^^ p0.mask else c.1)

theorem longPieces_plain (n : Byte) (k : Nat) (h : n ≠ p0.esc) :
    ∀ c ∈ longPieces n k, c.2 = false → c.1 ≠ p0.esc := by
  intro c hc h2
  simp only [longPieces, List.mem_append, List.mem_replicate] at hc
  rcases hc with hc | ⟨_, rfl⟩
  · simp only [plain, List.mem_cons, List.not_mem_nil, or_false] at hc
    rcases hc with rfl | rfl | rfl | rfl
    · decide
    · decide
    · exact h
    · decide
  · cases h2

theorem pieceBytes_longPieces (n : Byte) (k : Nat) :
    (pieceBytes (longPieces n k)).getD 3 0 = n ∧ (pieceBytes (longPieces n k)).length = 5 + k :=
  ⟨rfl, by simp [pieceBytes, longPieces]; omega⟩

/-- For FdecDeliversAWholeFrame: the pieces of a short frame, and of long frames with 1 and 255 bytes of payload. -/
theorem test_witness_whole_frame :
    (∀ c ∈ shortPieces, c.2 = false → c.1 ≠ p0.esc) ∧ (pieceBytes shortPieces).length = 5 ∧
    (pieceBytes shortPieces).getD 3 0 = 0 ∧
    (∀ c ∈ longPieces 1 3, c.2 = false → c.1 ≠ p0.esc) ∧ (pieceBytes (longPieces 1 3)).getD 3 0 = 1 ∧
    (pieceBytes (longPieces 1 3)).length = 7 + (1 : Byte).toNat ∧
    (∀ c ∈ longPieces 255 257, c.2 = false → c.1 ≠ p0.esc) ∧ (pieceBytes (longPieces 255 257)).getD 3 0 = 255 ∧
    (pieceBytes (longPieces 255 257)).length = 7 + (255 : Byte).toNat :=
  ⟨by decide +kernel, by decide, by decide, longPieces_plain _ _ (by decide), (pieceBytes_longPieces _ _).1,
    (pieceBytes_longPieces _ _).2, longPieces_plain _ _ (by decide), (pieceBytes_longPieces _ _).1,
    (pieceBytes_longPieces _ _).2⟩

/-- For FdecTimesOutOrWaits: a START alone, four bytes, and long frames one byte short. -/
theorem test_witness_partial_frame :
    (pieceBytes []).length < 5 ∧ (pieceBytes [plain 0x7E, plain 5, plain 0]).length < 5 ∧
    (∀ c ∈ [plain 0x7E, plain 5, plain 0], c.2 = false → c.1 ≠ p0.esc) ∧
    (pieceBytes (longPieces 1 2)).getD 3 0 = 1 ∧ (pieceBytes (longPieces 1 2)).length < 7 + (1 : Byte).toNat ∧
    (∀ c ∈ longPieces 1 2, c.2 = false → c.1 ≠ p0.esc) ∧
    (pieceBytes (longPieces 255 256)).getD 3 0 = 255 ∧
    (pieceBytes (longPieces 255 256)).length < 7 + (255 : Byte).toNat ∧
    (∀ c ∈ longPieces 255 256, c.2 = false → c.1 ≠ p0.esc) :=
  ⟨by decide, by decide, by decide +kernel, (pieceBytes_longPieces _ _).1,
    (pieceBytes_longPieces _ _).2.trans_lt (by decide), longPieces_plain _ _ (by decide),
    (pieceBytes_longPieces _ _).1, (pieceBytes_longPieces _ _).2.trans_lt (by decide), longPieces_plain _ _ (by decide)⟩

/-- For RdAnswersTheRegister: RXBUF_LEN of an empty and of a full buffer, on any instance. -/
theorem test_witness_rxbuf_len (p : Params) : State.reset.rx.buf.length ≤ p.rxbufCap ∧
    (received (List.replicate p.rxbufCap 0) 0).rx.buf.length ≤ p.rxbufCap :=
  ⟨Nat.zero_le _, le_of_eq List.length_replicate⟩

/-- For FencStoresTheRawFrame: an image of one byte, before an escaped and before a plain byte. -/
theorem test_witness_escaping : ([0x7E] : List Byte) ≠ [] ∧ stuff p0 [0x7E, 0x7D] = [0x7E, 0x7D, 0x5D] ∧
    stuff p0 [0x7E, 0x5D] = [0x7E, 0x5D] := by decide +kernel

/-- For FullBufferAlwaysDrains. -/
theorem test_witness_full_buffer : 522 ≤ (List.replicate 522 (0 : Byte)).length ∧
    (received (List.replicate Config.params.rxbufCap 0) 0).rx.buf.length = Config.params.rxbufCap :=
  ⟨by rw [List.length_replicate], test_witness_rxdata.2⟩

/-- For RepeatedIncompleteChangesNothing. -/
theorem test_witness_incomplete_answer : exec .fdec State.reset = .next (fdecOp Config.params State.reset) ∧
    (fdecOp Config.params State.reset).status.lastCode = 0x01 := ⟨rfl, rfl⟩

/-- For RndIsNearestTieAway. -/
theorem test_witness_rnd_tie : (0 : Int) < 2 ∧ 2 * |(1 : Int) - 2 * rnd 1 2| = 2 := by decide

/-- For IdealDelayFormula, for the last dipole and its unit. -/
theorem test_witness_ideal_delay : ∃ sa ca sz cz : Int,
    (15 : Unit16).val = (255 : Dipole).val / 16 ∧ (sa, ca) = p0.sincos oneDipole.az.toInt ∧
    (sz, cz) = p0.sincos (90 * 2 ^ 16 - oneDipole.el.toInt) := ⟨_, _, _, _, by decide, rfl, rfl⟩

/-- For ZenithDelayIsTheHeightTerm. -/
theorem test_witness_zenith : (atOrigin 7 2 0).el.toInt = 90 * 2 ^ 16 ∧
    (atOrigin 7 2 0).posZ[(0 : Dipole)].toInt = (atOrigin 7 2 0).offZ.toInt := by decide +kernel

/-- For NaiveCandidateIsTheClampedMean. -/
theorem test_witness_naive :
    (Finset.univ.filter (fun i => unitOf i = 0 ∧ isValid oneDipole i = true)).Nonempty :=
  ⟨0, by simp only [Finset.mem_filter, Finset.mem_univ, true_and]; decide +kernel⟩

/-- For SolveCostCountsAndSquares, one dipole in range and one out of range: the trial fine delays at candidate 0 are 0 and far above 15. -/
theorem test_witness_solve_cost : isValid (atOrigin 0 2 0) 0 = true ∧ isValid (atOrigin 20000 2 0) 0 = true ∧
    rnd (idealDelay p0 (atOrigin 0 2 0) 0 - 0 * p0.ss) p0.fs = 0 ∧
    15 < rnd (idealDelay p0 (atOrigin 20000 2 0) 0 - 0 * p0.ss) p0.fs := by decide +kernel

/-- For RefineCostLeavesSentinelsOut: a dipole that counts and one left out. -/
theorem test_witness_refine_cost : isValid (atOrigin 0 2 0) 0 = true ∧ unitOf 0 = 0 ∧
    ((State.reset.fine.set 1 16)[(0 : Dipole)]).toInt ≠ 16 ∧ ((State.reset.fine.set 1 16)[(1 : Dipole)]).toInt = 16 := by
  decide +kernel

/-- For SelectionIsTheLowestLeastCost: both commands, with the optimisation off and on. -/
theorem test_witness_selection : ∃ (n0 c c' : Int) (cost cost' : Int → Cost),
    n0 = naiveCoarse p0 oneDipole 0 ∧ (cost = solveCost p0 oneDipole 0 ∧ c = solveCoarse p0 oneDipole 0) ∧
    (cost' = refineCost p0 oneDipole State.reset.fine 0 ∧ c' = refineCoarse p0 oneDipole State.reset.fine 0) ∧
    optBit oneDipole = false ∧ optBit (atOrigin 0 6 0) = true :=
  ⟨_, _, _, _, _, rfl, ⟨rfl, rfl⟩, ⟨rfl, rfl⟩, by decide +kernel, by decide +kernel⟩

/-- For FineDelayAndResidual, ZenithDelayIsTheHeightTerm: CLIP on and off, and an unclamped fine delay. -/
theorem test_witness_fine_delay : clipBit (atOrigin 0 2 0) = true ∧ clipBit (atOrigin 0 0 0) = false ∧
    solveFine p0 (atOrigin 0 0 0) 0 =
      rnd (idealDelay p0 (atOrigin 0 0 0) 0 - solveCoarse p0 (atOrigin 0 0 0) (unitOf 0) * p0.ss) p0.fs := by
  decide +kernel

/-- For SentinelComesOnlyFromMarking: a marked dipole and an unmarked one, with CLIP = 1. -/
theorem test_witness_sentinel : clipBit (atOrigin (to32 (-20000)) 6 1000) = true ∧
    committedFine p0 (atOrigin (to32 (-20000)) 6 1000) 0 = 16 ∧ committedFine p0 (atOrigin 0 6 1000) 0 = 0 := by
  decide +kernel

/-- For SolverPrechecksFail, just outside and at both ends of the range of elevations. -/
theorem test_witness_prechecks :
    (solving { State.reset.din with el := 0xFFFFFFFF }).din.el.toInt < 0 ∧
    90 * 2 ^ 16 < (solving { State.reset.din with el := 0x005A0001 }).din.el.toInt ∧
    (0 ≤ State.reset.din.el.toInt ∧ State.reset.din.el.toInt ≤ 90 * 2 ^ 16) ∧
    (solving { State.reset.din with el := 0x005A0000 }).din.el.toInt = 90 * 2 ^ 16 ∧
    (∀ w : Fin 8, State.reset.din.pvalid[w] = 0) := by decide +kernel

/-- One dipole at the origin, at the zenith, CLIP and STRICT on, with the greatest correction and the limit 0. -/
def farOff : SolverIn := atOrigin (to32 (2 ^ 27 - 1)) 3 0

theorem farOff_corr : farOff.corr[unitOf 0].toInt = 2 ^ 27 - 1 := by decide +kernel

theorem farOff_idealDelay (p : Params) : idealDelay p farOff 0 = 2 ^ 27 - 1 := by
  have h : projection p farOff 0 = 0 := by
    have hz : quarterTurn - farOff.el.toInt = 0 := by decide +kernel
    have hx : farOff.posX[(0 : Dipole)].toInt - farOff.offX.toInt = 0 := by decide +kernel
    have hy : farOff.posY[(0 : Dipole)].toInt - farOff.offY.toInt = 0 := by decide +kernel
    have hd : farOff.posZ[(0 : Dipole)].toInt - farOff.offZ.toInt = 0 := by decide +kernel
    simp only [projection, hx, hy, hd]
    ring
  rw [idealDelay, h, Laws.rnd_zero, farOff_corr]
  rfl

/-- No coarse delay is large enough to reach an ideal delay of 2^27 - 1 (00_scope.md R9). -/
theorem coarse_part_small (p : Params) (cost : Int → Cost) :
    chooseCoarse p farOff cost 0 * p.ss ≤ 127 * 65535 := by
  have h1 := (Laws.chooseCoarse_range p farOff cost 0).2
  have h2 := p.ss_le
  have h3 : chooseCoarse p farOff cost 0 ≤ 127 := by
    unfold coarseMax at h1
    omega
  nlinarith

/-- For StrictSolveAborts: on every instance SOLVE and REFINE with these inputs find a residual beyond the limit. -/
theorem test_witness_strict :
    0 ≤ (solving farOff).din.el.toInt ∧ (solving farOff).din.el.toInt ≤ 90 * 2 ^ 16 ∧
    strictBit (solving farOff).din = true ∧ isValid (solving farOff).din 0 = true ∧
    (solving farOff).din.errlim.toNat < (solveResidual Config.params (solving farOff).din 0).natAbs ∧
    (solving farOff).din.errlim.toNat <
      (refineResidual Config.params (solving farOff).din (solving farOff).fine 0).natAbs := by
  have hlim : farOff.errlim.toNat = 0 := by decide +kernel
  have hfs := Config.params.fs_le
  refine ⟨by decide +kernel, by decide +kernel, by decide +kernel, by decide +kernel, ?_, ?_⟩
  · show farOff.errlim.toNat < (solveResidual Config.params farOff 0).natAbs
    have hclip : clipBit farOff = true := by decide +kernel
    have hf : solveFine Config.params farOff 0 ≤ 15 := by
      simp only [solveFine, hclip, if_true]
      exact Laws.clamp_le (by decide)
    have hp : solveFine Config.params farOff 0 * Config.params.fs ≤ 15 * 65535 := by nlinarith
    have hc : solveCoarse Config.params farOff (unitOf 0) * Config.params.ss ≤ 127 * 65535 := coarse_part_small _ _
    rw [solveResidual, residualOf, farOff_idealDelay, hlim]
    omega
  · show farOff.errlim.toNat < (refineResidual Config.params farOff State.reset.fine 0).natAbs
    have hg : existingFine State.reset.fine 0 = 0 := by decide +kernel
    have hc : refineCoarse Config.params farOff State.reset.fine (unitOf 0) * Config.params.ss ≤ 127 * 65535 :=
      coarse_part_small _ _
    rw [refineResidual, hg, if_neg (by decide), residualOf, farOff_idealDelay, hlim]
    omega

/-- For SolveCommitsItsTable, RefineCommitsWithoutTouchingFine and SolveDependsOnInputsOnly: one valid dipole, SCTL = 0, at each end of the range of elevations. -/
theorem test_witness_commit :
    0 ≤ (solving { oneDipole with sctl := 0 }).din.el.toInt ∧
    (solving (atOrigin 0 0 0)).din.el.toInt ≤ 90 * 2 ^ 16 ∧
    strictBit (solving { oneDipole with sctl := 0 }).din = false ∧ strictBit (solving (atOrigin 0 0 0)).din = false ∧
    isValid (solving { oneDipole with sctl := 0 }).din 0 = true ∧ isValid (solving (atOrigin 0 0 0)).din 0 = true := by
  decide +kernel

/-- For SolveValuesFitTheirRegisters, RefineValuesFitTheirRegisters: an offset at each end of its range, and
a candidate at either end of LO..HI. -/
theorem test_witness_inputs_legal :
    InputsLegal { State.reset.din with offX := to32 (2 ^ 28 - 1), offY := to32 (-2 ^ 28 + 1) } ∧
    FineBounded Config.params State.reset.fine ∧ -128 + (Config.params.h : Int) ≤ 127 - (Config.params.h : Int) := by
  refine ⟨?_, ?_, ?_⟩
  · constructor <;> simp [State.reset, SignedBelow] <;> decide
  · intro i
    simp [State.reset]
  · exact Laws.coarseMin_le_coarseMax Config.params

/-- For SolveDependsOnInputsOnly: two states with the same inputs that differ elsewhere. -/
theorem test_witness_purity : (solving oneDipole).din = { solving oneDipole with fault := 3 }.din ∧
    (solving oneDipole).fine = { solving oneDipole with fault := 3 }.fine ∧
    (solving oneDipole).fault ≠ { solving oneDipole with fault := 3 }.fault := by
  refine ⟨rfl, rfl, ?_⟩
  decide +kernel

/-- For StepKeepsTheInvariant: a state other than the reset state that meets the invariant, and a step from it. -/
theorem test_witness_invariant :
    Inv Config.params { waiting [.resetInput] with csu := ⟨0xFF, 0xFF, 1⟩ } ∧
    step { waiting [.resetInput] with csu := ⟨0xFF, 0xFF, 1⟩ } = .next State.reset := by
  have h := Config.params.h_le
  refine ⟨?_, rfl⟩
  constructor
  · exact ⟨.ok, rfl⟩
  · constructor <;> decide
  · constructor <;> simp [waiting, State.reset]
  · constructor <;> simp [waiting, State.reset]
  · constructor <;> simp [waiting, State.reset, SignedBelow]
  · intro i
    simp [waiting, State.reset]
  · constructor <;> simp [waiting, State.reset, SignedBelow, sumsqValue, coarseMin, coarseMax]
    omega

end Sys2Proof.Tests
end

section
/-! PROOF. The obligations of 00_scope.md: the rounding primitive `rnd` (R11), and the units that share nothing but the
port, STATUS and FAULT (R2, 41_checksum.md R129). -/

namespace Sys2Proof.Proofs.Scope

open Sys2Proof Sys2Proof.Machine

/-! ### The rounding primitive (R11) -/

/-- `rnd` is odd in its first argument (R11). -/
theorem rnd_neg (n d : Int) : rnd (-n) d = -rnd n d := by
  simp only [rnd, Int.sign_neg, Int.natAbs_neg, Int.neg_mul]

/-- From 0 up, `rnd` is the floor of the quotient and a half (R11). -/
theorem rnd_of_nonneg {n d : Int} (hn : 0 ≤ n) (hd : 0 < d) : rnd n d = (2 * n + d) / (2 * d) := by
  have h0 : 0 ≤ (2 * n + d) / (2 * d) := Int.ediv_nonneg (by omega) (by omega)
  have habs := Laws.natAbs_rnd n d hd
  rw [Int.natAbs_of_nonneg hn] at habs
  have hsign : 0 ≤ rnd n d := by
    rw [rnd, Int.natAbs_of_nonneg hn]
    exact mul_nonneg (Int.sign_nonneg_iff.2 hn) h0
  rwa [Int.natAbs_of_nonneg hsign] at habs

/-- Rounding a number from 0 up moves it down by strictly less than half a step, so a tie is never rounded down (R11). -/
theorem sub_mul_rnd_lt {n d : Int} (hn : 0 ≤ n) (hd : 0 < d) : 2 * (n - d * rnd n d) < d := by
  have hlt : 2 * n + d < 2 * d * ((2 * n + d) / (2 * d)) + 2 * d :=
    Int.lt_mul_ediv_self_add (by omega)
  rw [← rnd_of_nonneg hn hd, Int.mul_assoc] at hlt
  omega

/-- At a tie a number from 0 up goes to the larger of its two nearest multiples (R11). -/
theorem lt_mul_rnd_of_tie {n d : Int} (hn : 0 ≤ n) (hd : 0 < d) (htie : 2 * |n - d * rnd n d| = d) :
    n < d * rnd n d := by
  have hdown := sub_mul_rnd_lt hn hd
  rw [Int.abs_eq_natAbs] at htie
  omega

/-- At a tie a number of either sign goes away from zero: the negative case is the mirror image of the other (R11). -/
theorem abs_lt_abs_mul_rnd_of_tie {n d : Int} (hd : 0 < d) (htie : 2 * |n - d * rnd n d| = d) :
    |n| < |d * rnd n d| := by
  rcases le_total 0 n with hn | hn
  · calc |n| = n := abs_of_nonneg hn
      _ < d * rnd n d := lt_mul_rnd_of_tie hn hd htie
      _ ≤ |d * rnd n d| := le_abs_self _
  · have hmirror : -n - d * rnd (-n) d = -(n - d * rnd n d) := by rw [rnd_neg]; ring
    have hup : -n < d * rnd (-n) d := lt_mul_rnd_of_tie (by omega) hd (by rw [hmirror, abs_neg, htie])
    calc |n| = -n := abs_of_nonpos hn
      _ < d * rnd (-n) d := hup
      _ = -(d * rnd n d) := by rw [rnd_neg, Int.mul_neg]
      _ ≤ |d * rnd n d| := neg_le_abs _

/-- Settles O42: the half-step bound is the model's own lemma, a tie is never rounded toward zero, and `rnd` is odd. -/
theorem rndIsNearestTieAway : Obligations.RndIsNearestTieAway := fun n d hd =>
  ⟨Laws.abs_sub_mul_rnd_le n d hd, abs_lt_abs_mul_rnd_of_tie hd, rnd_neg n d⟩

/-! ### What a command of one unit leaves to the others (R2, 41_checksum.md R129) -/

/-- The checksum unit and the solver are the same in both states: what a frame codec command must leave. -/
def SameOutsideCodec (s t : State) : Prop :=
  t.csu = s.csu ∧ t.din = s.din ∧ t.fine = s.fine ∧ t.dout = s.dout

/-- The frame codec and the solver are the same in both states: what a checksum command must leave. -/
def SameOutsideChecksum (s t : State) : Prop :=
  t.tx = s.tx ∧ t.rx = s.rx ∧ t.din = s.din ∧ t.fine = s.fine ∧ t.dout = s.dout

/-- The checksum unit, the frame codec and the solver's inputs other than FINE are the same in both states: what SOLVE and
REFINE must leave. -/
def SameOutsideResults (s t : State) : Prop :=
  t.csu = s.csu ∧ t.tx = s.tx ∧ t.rx = s.rx ∧ t.din = s.din

/-! #### The frame codec's commands -/

theorem fencOp_sameOutsideCodec (p : Params) (s : State) : SameOutsideCodec s (fencOp p s) := by
  simp [SameOutsideCodec, fencOp]

theorem rxdataOp_sameOutsideCodec (p : Params) (b : Byte) (s : State) : SameOutsideCodec s (rxdataOp p b s) := by
  rcases Laws.rxdataOp_cases p b s with ⟨_, hfault⟩ | ⟨_, happend⟩
  · simp [SameOutsideCodec, hfault]
  · simp [SameOutsideCodec, happend]

theorem rxidleOp_sameOutsideCodec (s : State) : SameOutsideCodec s (rxidleOp s) := by
  simp [SameOutsideCodec, rxidleOp]

theorem fdecOp_sameOutsideCodec (p : Params) (s : State) : SameOutsideCodec s (fdecOp p s) := by
  rcases Laws.fdecOp_cases p s with ⟨_, hdeliver⟩ | ⟨_, _, htimeout⟩ | ⟨_, _, hwait⟩
  · simp [SameOutsideCodec, hdeliver]
  · simp [SameOutsideCodec, htimeout]
  · simp [SameOutsideCodec, hwait]

theorem rxflushOp_sameOutsideCodec (s : State) : SameOutsideCodec s (rxflushOp s) := by
  simp [SameOutsideCodec, rxflushOp]

/-- Every frame codec command answers a next state and leaves the checksum unit and the solver. -/
theorem exec_codec_frame (s : State) (b : Byte) :
    ∀ i ∈ [Instr.fenc, .rxdata b, .rxidle, .fdec, .rxflush], ∃ t, exec i s = .next t ∧ SameOutsideCodec s t := by
  simp only [List.forall_mem_cons]
  exact ⟨⟨_, Laws.exec_fenc s, fencOp_sameOutsideCodec _ s⟩,
    ⟨_, Laws.exec_rxdata b s, rxdataOp_sameOutsideCodec _ b s⟩,
    ⟨_, Laws.exec_rxidle s, rxidleOp_sameOutsideCodec s⟩,
    ⟨_, Laws.exec_fdec s, fdecOp_sameOutsideCodec _ s⟩,
    ⟨_, Laws.exec_rxflush s, rxflushOp_sameOutsideCodec s⟩, List.forall_mem_nil _⟩

/-! #### The checksum commands -/

theorem csclrOp_sameOutsideChecksum (s : State) : SameOutsideChecksum s (csclrOp s) := by
  simp [SameOutsideChecksum, csclrOp]

theorem cspushOp_sameOutsideChecksum (b : Byte) (s : State) : SameOutsideChecksum s (cspushOp b s) := by
  rcases Laws.cspushOp_cases b s with ⟨_, hfault⟩ | ⟨_, habsorb⟩
  · simp [SameOutsideChecksum, hfault]
  · simp [SameOutsideChecksum, habsorb]

theorem csrd8Op_sameOutsideChecksum (s : State) : SameOutsideChecksum s (csrd8Op s) := by
  simp [SameOutsideChecksum, csrd8Op]

theorem csrd16Op_sameOutsideChecksum (s : State) : SameOutsideChecksum s (csrd16Op s) := by
  simp [SameOutsideChecksum, csrd16Op]

/-- Every checksum command answers a next state and leaves the frame codec and the solver. -/
theorem exec_checksum_frame (s : State) (b : Byte) :
    ∀ i ∈ [Instr.csclr, .cspush b, .csrd8, .csrd16], ∃ t, exec i s = .next t ∧ SameOutsideChecksum s t := by
  simp only [List.forall_mem_cons]
  exact ⟨⟨_, Laws.exec_csclr s, csclrOp_sameOutsideChecksum s⟩,
    ⟨_, Laws.exec_cspush b s, cspushOp_sameOutsideChecksum b s⟩,
    ⟨_, Laws.exec_csrd8 s, csrd8Op_sameOutsideChecksum s⟩,
    ⟨_, Laws.exec_csrd16 s, csrd16Op_sameOutsideChecksum s⟩, List.forall_mem_nil _⟩

/-! #### SOLVE and REFINE -/

theorem failSolve_sameOutsideResults (c : Code) (s : State) : SameOutsideResults s (failSolve c s) := by
  simp [SameOutsideResults]

theorem commit_sameOutsideResults (c : Code) (v : Word) (fine : Vector Word 256) (out : SolverOut) (s : State) :
    SameOutsideResults s (respond c v (s.commit fine out)) := by
  simp [SameOutsideResults]

theorem solveOp_sameOutsideResults (p : Params) (s : State) : SameOutsideResults s (solveOp p s) := by
  rcases Laws.solveOp_cases p s with ⟨_, hfail⟩ | ⟨_, _, hfail⟩ | ⟨_, _, _, _, hfail⟩ | ⟨_, _, _, hcommit⟩
  · exact hfail ▸ failSolve_sameOutsideResults _ s
  · exact hfail ▸ failSolve_sameOutsideResults _ s
  · exact hfail ▸ failSolve_sameOutsideResults _ s
  · exact hcommit ▸ commit_sameOutsideResults _ _ _ _ s

theorem refineOp_sameOutsideResults (p : Params) (s : State) : SameOutsideResults s (refineOp p s) := by
  rcases Laws.refineOp_cases p s with ⟨_, hfail⟩ | ⟨_, _, hfail⟩ | ⟨_, _, _, _, hfail⟩ | ⟨_, _, _, hcommit⟩
  · exact hfail ▸ failSolve_sameOutsideResults _ s
  · exact hfail ▸ failSolve_sameOutsideResults _ s
  · exact hfail ▸ failSolve_sameOutsideResults _ s
  · exact hcommit ▸ commit_sameOutsideResults _ _ _ _ s

/-- SOLVE and REFINE answer a next state and leave the checksum unit, the frame codec and the solver's inputs. -/
theorem exec_solver_frame (s : State) :
    ∀ i ∈ [Instr.solve, .refine], ∃ t, exec i s = .next t ∧ SameOutsideResults s t := by
  simp only [List.forall_mem_cons]
  exact ⟨⟨_, Laws.exec_solve s, solveOp_sameOutsideResults _ s⟩,
    ⟨_, Laws.exec_refine s, refineOp_sameOutsideResults _ s⟩, List.forall_mem_nil _⟩

/-- Settles O58, unit by unit: each command's cases leave the registers of the other units. -/
theorem unitsDoNotDisturbEachOther : Obligations.UnitsDoNotDisturbEachOther := fun s b =>
  ⟨exec_codec_frame s b, exec_checksum_frame s b, exec_solver_frame s⟩

end Sys2Proof.Proofs.Scope
end

section
/-! PROOF. The registers of 10_state.md: the register map (R46, R49), access rights and legal values (R21, R44), STATUS
(R23), the reset values (R45), and WR of an illegal value (40_host_access.md R113). -/

namespace Sys2Proof.Proofs.RegisterMap

open Sys2Proof Sys2Proof.Machine

/-! ### From a register to its address -/

theorem regNumber_lt (r : Reg) : regNumber r < 0x1600 := by
  cases r <;> simp only [regNumber] <;> omega

/-- No register's number is cut by the 16 bits of the `addr` field. -/
@[simp] theorem toNat_regAddr (r : Reg) : (regAddr r).toNat = regNumber r := by
  have hlt := regNumber_lt r
  rw [regAddr, BitVec.toNat_ofNat]
  omega

/-! ### From an address to its register -/

theorem arrayIndex_eq_some {base len a : Nat} {k : Fin len} :
    arrayIndex base len a = some k ↔ a = base + k.val := by
  unfold arrayIndex
  split_ifs <;> simp [Fin.ext_iff] <;> omega

theorem arrayIndex_eq_none {base len a : Nat} :
    arrayIndex base len a = none ↔ a < base ∨ base + len ≤ a := by
  unfold arrayIndex
  split_ifs <;> simp <;> omega

@[simp] theorem arrayIndex_base_add {base len : Nat} (k : Fin len) : arrayIndex base len (base + k.val) = some k :=
  arrayIndex_eq_some.2 rfl

theorem arrayIndex_above {base len a : Nat} (h : base + len ≤ a) : arrayIndex base len a = none :=
  arrayIndex_eq_none.2 (.inr h)

theorem regNumber_of_arrayRegAt {a : Nat} {r : Reg} (h : arrayRegAt a = some r) : regNumber r = a := by
  simp only [arrayRegAt, Option.or_eq_some_iff, Option.map_eq_some_iff, arrayIndex_eq_some] at h
  rcases h with ⟨k, rfl, rfl⟩ | ⟨-, ⟨k, rfl, rfl⟩ | ⟨-, ⟨k, rfl, rfl⟩ | ⟨-, ⟨k, rfl, rfl⟩ | ⟨-, ⟨k, rfl, rfl⟩ |
    ⟨-, ⟨k, rfl, rfl⟩ | ⟨-, ⟨k, rfl, rfl⟩ | ⟨-, ⟨k, rfl, rfl⟩ | ⟨-, ⟨k, rfl, rfl⟩ | ⟨-, ⟨k, rfl, rfl⟩ |
    ⟨-, k, rfl, rfl⟩⟩⟩⟩⟩⟩⟩⟩⟩⟩ <;> rfl

/-- The register found at an address has that number: an array entry by its index, a scalar by the search's own test. -/
theorem regNumber_of_regAt {a : RegAddr} {r : Reg} (h : regAt a = some r) : regNumber r = a.toNat := by
  rcases Option.or_eq_some_iff.1 h with harray | ⟨-, hscalar⟩
  · exact regNumber_of_arrayRegAt harray
  · simpa using List.find?_some hscalar

theorem eq_regAddr_of_regAt {a : RegAddr} {r : Reg} (h : regAt a = some r) : a = regAddr r :=
  BitVec.eq_of_toNat_eq (by rw [toNat_regAddr, regNumber_of_regAt h])

theorem regAt_regAddr_scalar : ∀ r ∈ scalarRegs, regAt (regAddr r) = some r := by decide

/-- An array entry's address is above every array that the search tries first, and no array holds a scalar's address. -/
@[simp] theorem regAt_regAddr (r : Reg) : regAt (regAddr r) = some r := by
  cases r with
  | txPay k | txraw k | rxPay k | pvalid k | corr k | coarse k | posX k | posY k | posZ k | fine k | err k =>
    simp (disch := omega) only [regAt, arrayRegAt, toNat_regAddr, regNumber, arrayIndex_base_add, arrayIndex_above,
      Option.map_some, Option.map_none, Option.some_or, Option.none_or]
  | _ => exact regAt_regAddr_scalar _ (by decide)

/-- The addresses outside the arrays, neighbouring arrays taken together. -/
theorem arrayRegAt_eq_none {a : Nat} : arrayRegAt a = none ↔
    (a < 0x0300 ∨ 0x03FF ≤ a) ∧ (a < 0x0400 ∨ 0x060B ≤ a) ∧ (a < 0x0900 ∨ 0x09FF ≤ a) ∧
    (a < 0x1010 ∨ 0x1018 ≤ a) ∧ (a < 0x1020 ∨ 0x1040 ≤ a) ∧ (a < 0x1100 ∨ 0x1600 ≤ a) := by
  simp only [arrayRegAt, Option.or_eq_none_iff, Option.map_eq_none_iff, arrayIndex_eq_none]
  omega

/-- The addresses that hold no scalar, by the blocks in which the scalars stand. -/
theorem find_scalar_eq_none {a : Nat} : scalarRegs.find? (fun r => regNumber r == a) = none ↔
    2 < a ∧ (a < 8 ∨ 15 < a) ∧ (a < 0x100 ∨ 0x102 < a) ∧ (a < 0x200 ∨ 0x203 < a) ∧ (a < 0x800 ∨ 0x807 < a) ∧
    (a < 0x1000 ∨ 0x1006 < a) ∧ (a < 0x1008 ∨ 0x100C < a) := by
  simp [List.find?_eq_none, scalarRegs, regNumber]
  omega

/-- Settles O18: the numbers are the definition's own, the map and its inverse are `regAt_regAddr` and
`eq_regAddr_of_regAt`, and an address is unmapped when it is outside the arrays and the blocks of scalars. -/
theorem registerMapIsExact : Obligations.RegisterMapIsExact := by
  refine ⟨by decide, by decide, by decide, ?tx, ?rx, ?solver, regAt_regAddr, fun a r => eq_regAddr_of_regAt, ?unmapped⟩
  case tx => exact ⟨rfl, rfl, rfl, rfl, fun k => toNat_regAddr _, fun k => toNat_regAddr _⟩
  case rx => exact ⟨rfl, rfl, rfl, rfl, rfl, rfl, rfl, rfl, fun k => toNat_regAddr _⟩
  case solver =>
    exact ⟨rfl, rfl, rfl, rfl, rfl, rfl, rfl, rfl, rfl, rfl, rfl, rfl, fun w => toNat_regAddr _,
      fun u => ⟨toNat_regAddr _, toNat_regAddr _⟩,
      fun i => ⟨toNat_regAddr _, toNat_regAddr _, toNat_regAddr _, toNat_regAddr _, toNat_regAddr _⟩⟩
  case unmapped =>
    intro a
    rw [regAt, Option.or_eq_none_iff, arrayRegAt_eq_none, find_scalar_eq_none]
    omega

/-! ### Access rights and legal values (R21, R44) -/

theorem within_iff {bound : Int} {d : Word} : within bound d = true ↔ -bound < d.toInt ∧ d.toInt < bound := by
  simp [within]

/-- Where a WR faults with F_ADDR whatever the data, no data is legal. -/
theorem legalValue_of_ro {r : Reg} (hro : access r = .ro) (d : Word) : legalValue r d = false := by
  revert hro
  cases r <;> simp [access, legalValue]

/-- Settles O17, register by register. -/
theorem legalValuesByRegister : Obligations.LegalValuesByRegister := by
  refine ⟨?bytes, ?txPay, ?words, ?pvalid, ?offsets, ?positions, ?corr, ?sctl, ?fine, fun r => legalValue_of_ro, ?rw⟩
  case bytes | txPay | words | pvalid | sctl | fine => simp [legalValue]
  case offsets | positions | corr => simp [legalValue, within_iff]
  case rw =>
    intro r
    cases r <;> simp [access]

/-! ### WR of an illegal value (40_host_access.md R113) -/

/-- WR to a writable register of a value outside its range is the fault F_RANGE. -/
theorem wrOp_regAddr_of_illegal {r : Reg} {d : Word} (s : State) (hrw : access r = .rw)
    (hillegal : legalValue r d = false) : wrOp (regAddr r) d s = faultOut .fRange s := by
  rcases Laws.wrOp_cases (regAddr r) d s with ⟨hro, -⟩ | ⟨-, -, -, -, hfault⟩ | ⟨r', hmapped, -, hlegal, -⟩
  · exact absurd (hrw.symm.trans (hro r (regAt_regAddr r))) (by decide)
  · exact hfault
  · obtain rfl : r = r' := Option.some.inj ((regAt_regAddr r).symm.trans hmapped)
    exact absurd (hlegal.symm.trans hillegal) (by decide)

theorem responseWord_fRange : responseWord .fRange 0 = 0x0000000000000082 := by
  simp [responseWord, Code.bits]

/-- Settles O16: the register at `regAddr r` is `r`, and all that the fault does is `Laws.faultOut_eq`. -/
theorem wrOutOfRangeFaults : Obligations.WrOutOfRangeFaults := fun r d s hrw hillegal => by
  rw [Laws.exec_wr, wrOp_regAddr_of_illegal s hrw hillegal, Laws.faultOut_eq, responseWord_fRange]
  simp only [Code.faultBit, Code.bits]

/-! ### STATUS (R23) -/

/-- STATUS bit by bit: LASTCODE below, the three flags above it, and 0 from bit 11 up. -/
theorem getLsbD_statusWord (st : Status) (k : Nat) : (statusWord st).getLsbD k =
    if k < 8 then st.lastCode.getLsbD k else
    if k = 8 then st.resValid else if k = 9 then st.rxValid else if k = 10 then st.txValid else false := by
  simp only [statusWord, BitVec.getLsbD_setWidth, BitVec.getLsbD_append, BitVec.getLsbD_ofBool]
  grind

/-- Settles O19: every field is read off `getLsbD_statusWord`. -/
theorem statusReadsItsFields : Obligations.StatusReadsItsFields := by
  intro p s
  simp only [readReg]
  refine ⟨?lastCode, ?_, ?_, ?_, ?zeros⟩
  case lastCode =>
    refine BitVec.eq_of_getLsbD_eq fun k hk => ?_
    simp [getLsbD_statusWord, hk]
  case zeros =>
    refine BitVec.eq_of_getLsbD_eq fun k hk => ?_
    simp only [BitVec.getLsbD_extractLsb', getLsbD_statusWord]
    grind
  all_goals
    rw [getLsbD_statusWord]
    rfl

/-! ### Reset values (R45) -/

/-- Settles O21: a CFG register reads its parameter, which fits it (00_scope.md R9), and every other one reads 0. -/
theorem resetValuesOfEveryRegister : Obligations.ResetValuesOfEveryRegister := by
  intro p
  have hfs := p.fs_le
  have hss := p.ss_le
  have hh := p.h_le
  have hcInv := p.cInv_le
  have hcap := p.rxbufCap_le
  refine ⟨rfl, ?start, ?esc, ?mask, ?fs, ?ss, ?h, ?cInv, ?rxbufCap, ?others, rfl⟩
  case start | esc | mask => exact BitVec.toNat_setWidth_of_le (by decide)
  case fs | ss | h | cInv | rxbufCap => exact Nat.mod_eq_of_lt (by omega)
  case others =>
    intro r hr
    cases r <;> simp [readReg, State.reset, statusWord] at hr ⊢

end Sys2Proof.Proofs.RegisterMap
end

section
/-! PROOF. The magnitudes of the delay solver (43_delay_solver.md R176): with legal inputs every value that a solve
computes fits the register it is stored in. -/

namespace Sys2Proof.Proofs.SolverBounds

open Sys2Proof Sys2Proof.Machine

/-! ### Magnitudes -/

theorem abs_mul_le_mul {a b x y : Int} (ha : |a| ≤ x) (hb : |b| ≤ y) : |a * b| ≤ x * y := by
  rw [abs_mul]
  exact mul_le_mul ha hb (abs_nonneg b) ((abs_nonneg a).trans ha)

theorem isAngle_toInt (w : Word) : IsAngle w.toInt := by
  have hlo := w.le_toInt
  have hhi := w.toInt_lt
  constructor <;> omega

theorem natAbs_lt_of_abs_lt {v : Int} (h : |v| < 2 ^ 30) : v.natAbs < 2 ^ 30 := by
  rw [Int.abs_eq_natAbs] at h
  omega

theorem abs_toInt_lt {bound : Int} {w : Word} (h : SignedBelow bound w) : |w.toInt| < bound :=
  abs_lt.2 h

/-- A difference of two lengths that the host can write (R176). -/
theorem abs_sub_le_of_signedBelow {w v : Word} (hw : SignedBelow (2 ^ 28) w) (hv : SignedBelow (2 ^ 28) v) :
    |w.toInt - v.toInt| ≤ 2 ^ 29 := by
  obtain ⟨hw1, hw2⟩ := hw
  obtain ⟨hv1, hv2⟩ := hv
  rw [abs_le]
  omega

/-! ### The ideal delay (R172 to R174) -/

/-- The elevation is in its range exactly when SOLVE does not answer E_ZENITH (R171). -/
theorem elevationBad_eq_false {d : SolverIn} :
    elevationBad d = false ↔ 0 ≤ d.el.toInt ∧ d.el.toInt ≤ quarterTurn := by
  simp [elevationBad]

theorem isAngle_zenith {d : SolverIn} (hel : elevationBad d = false) : IsAngle (quarterTurn - d.el.toInt) := by
  obtain ⟨hlo, hhi⟩ := elevationBad_eq_false.1 hel
  unfold quarterTurn at *
  constructor <;> omega

section Ideal

variable (p : Params) {d : SolverIn} (hin : InputsLegal d) (hel : elevationBad d = false) (i : Dipole)
include hin hel

/-- `abs(num) ≤ (2^90 + 2^89)·2^32` (R176). -/
theorem abs_projection_le : |projection p d i| ≤ (2 ^ 90 + 2 ^ 89) * 2 ^ 32 := by
  obtain ⟨hsa, hca⟩ := p.sincos_range _ (isAngle_toInt d.az)
  obtain ⟨hsz, hcz⟩ := p.sincos_range _ (isAngle_zenith hel)
  have hdx := abs_sub_le_of_signedBelow (hin.posX i) hin.offX
  have hdy := abs_sub_le_of_signedBelow (hin.posY i) hin.offY
  have hdz := abs_sub_le_of_signedBelow (hin.posZ i) hin.offZ
  have hcInv : |(p.cInv : Int)| ≤ 2 ^ 32 := by
    have := p.cInv_le
    rw [abs_le]
    omega
  have hhorizontal := (abs_add_le _ _).trans (add_le_add (abs_mul_le_mul hdx hsa) (abs_mul_le_mul hdy hca))
  have hvertical := abs_mul_le_mul (abs_mul_le_mul hdz hcz) (abs_of_pos (show (0 : Int) < 2 ^ 30 by decide)).le
  have hsum := (abs_add_le _ _).trans (add_le_add (abs_mul_le_mul hhorizontal hsz) hvertical)
  exact (abs_mul_le_mul hsum hcInv).trans (by norm_num)

/-- `abs(ideal_i) < 2^28`: the geometric part is at most `1.5·2^26`, the correction below `2^27` (R176). -/
theorem abs_idealDelay_lt : |idealDelay p d i| < 2 ^ 28 := by
  have hproj := abs_projection_le p hin hel i
  have hround := Laws.abs_mul_rnd_le (projection p d i) (2 ^ 96) (by decide)
  rw [abs_mul, abs_of_pos (show (0 : Int) < 2 ^ 96 by decide)] at hround
  have hgeom : |rnd (projection p d i) (2 ^ 96)| ≤ 3 * 2 ^ 25 := by omega
  have hcorr := abs_toInt_lt (hin.corr (unitOf i))
  calc |idealDelay p d i| ≤ |rnd (projection p d i) (2 ^ 96)| + |(d.corr[unitOf i]).toInt| := abs_add_le _ _
    _ < 2 ^ 28 := by omega

end Ideal

/-! ### One dipole's fine delay and residual (R181, R182, R188) -/

/-- A coarse term `c·SS` (R176). -/
theorem abs_coarse_mul_lt {p : Params} {c : Int} (hlo : coarseMin p ≤ c) (hhi : c ≤ coarseMax p) :
    |c * (p.ss : Int)| < 2 ^ 23 := by
  have hss := p.ss_le
  have hc : |c| ≤ 128 := by
    unfold coarseMin at hlo
    unfold coarseMax at hhi
    rw [abs_le]
    omega
  exact (abs_mul_le_mul hc (show |(p.ss : Int)| ≤ 65535 by rw [abs_le]; omega)).trans_lt (by decide)

/-- A clamped fine delay, the sentinel, or a fine delay that the host can write (R176, 10_state.md R38). -/
theorem abs_fine_mul_lt (p : Params) {f : Int} (hlo : -16 ≤ f) (hhi : f ≤ 16) :
    |f * (p.fs : Int)| < 2 ^ 28 + 2 ^ 24 := by
  have hfs := p.fs_le
  exact (abs_mul_le_mul (abs_le.2 ⟨hlo, hhi⟩) (show |(p.fs : Int)| ≤ 65535 by rw [abs_le]; omega)).trans_lt (by decide)

/-- A fine delay computed without clamping (R176). -/
theorem abs_trialFine_mul_lt {p : Params} {ideal c : Int} (hideal : |ideal| < 2 ^ 28)
    (hcoarse : |c * (p.ss : Int)| < 2 ^ 23) : |trialFine p ideal c * (p.fs : Int)| < 2 ^ 28 + 2 ^ 24 := by
  have hfs := p.fs_le
  have hpos := p.fs_pos
  have hround := Laws.abs_mul_rnd_le (ideal - c * p.ss) p.fs (by omega)
  have hsub := abs_sub ideal (c * (p.ss : Int))
  rw [mul_comm, trialFine]
  omega

/-- Every residual, of SOLVE or of REFINE (R176). -/
theorem abs_residualOf_lt {p : Params} {ideal f c : Int} (hideal : |ideal| < 2 ^ 28)
    (hfine : |f * (p.fs : Int)| < 2 ^ 28 + 2 ^ 24) (hcoarse : |c * (p.ss : Int)| < 2 ^ 23) :
    |residualOf p ideal f c| < 2 ^ 30 := by
  rw [abs_lt] at hideal hfine hcoarse ⊢
  unfold residualOf
  omega

/-- A step is at least one picosecond, so a bound on `f·FS` is one on `f`, which then reads back from its register. -/
theorem toInt_to32_fine {p : Params} {f : Int} (hfine : |f * (p.fs : Int)| < 2 ^ 28 + 2 ^ 24) :
    (to32 f).toInt = f := by
  have hpos : (1 : Int) ≤ p.fs := by exact_mod_cast p.fs_pos
  have hle : |f| ≤ |f * (p.fs : Int)| := by
    rw [abs_mul, abs_of_pos (show (0 : Int) < p.fs by omega)]
    exact le_mul_of_one_le_right (abs_nonneg f) hpos
  have hlt := abs_lt.1 (hle.trans_lt hfine)
  exact Laws.toInt_to32 (by omega) (by omega)

theorem toInt_to32_of_abs_lt {v : Int} (h : |v| < 2 ^ 30) : (to32 v).toInt = v := by
  rw [abs_lt] at h
  exact Laws.toInt_to32 (by omega) (by omega)

theorem toInt_to32_coarse {p : Params} {c : Int} (hlo : coarseMin p ≤ c) (hhi : c ≤ coarseMax p) :
    (to32 c).toInt = c := by
  unfold coarseMin at hlo
  unfold coarseMax at hhi
  exact Laws.toInt_to32 (by omega) (by omega)

section Commands

variable (p : Params) {d : SolverIn} (hin : InputsLegal d) (hel : elevationBad d = false)
include hin hel

/-- The fine delay of SOLVE before any marking, clamped or not (R181). -/
theorem abs_solveFine_mul_lt (i : Dipole) : |solveFine p d i * (p.fs : Int)| < 2 ^ 28 + 2 ^ 24 := by
  obtain ⟨hlo, hhi⟩ := Laws.chooseCoarse_range p d (solveCost p d (unitOf i)) (unitOf i)
  unfold solveFine
  split
  · have hle := Laws.clamp_le (v := trialFine p (idealDelay p d i) (solveCoarse p d (unitOf i)))
      (show fineMin ≤ fineMax by decide)
    have hge := Laws.le_clamp (trialFine p (idealDelay p d i) (solveCoarse p d (unitOf i))) fineMin fineMax
    exact abs_fine_mul_lt p hge (hle.trans (by decide))
  · exact abs_trialFine_mul_lt (abs_idealDelay_lt p hin hel i) (abs_coarse_mul_lt hlo hhi)

/-- The fine delay that SOLVE commits, the sentinel included (R183). -/
theorem abs_committedFine_mul_lt (i : Dipole) : |committedFine p d i * (p.fs : Int)| < 2 ^ 28 + 2 ^ 24 := by
  unfold committedFine
  split
  · exact abs_fine_mul_lt p (by decide) (by decide)
  · exact abs_solveFine_mul_lt p hin hel i

theorem abs_solveResidual_lt (i : Dipole) : |solveResidual p d i| < 2 ^ 30 := by
  obtain ⟨hlo, hhi⟩ := Laws.chooseCoarse_range p d (solveCost p d (unitOf i)) (unitOf i)
  exact abs_residualOf_lt (abs_idealDelay_lt p hin hel i) (abs_solveFine_mul_lt p hin hel i)
    (abs_coarse_mul_lt hlo hhi)

theorem abs_refineResidual_lt {fine : Vector Word 256} (hfine : FineBounded p fine) (i : Dipole) :
    |refineResidual p d fine i| < 2 ^ 30 := by
  obtain ⟨hlo, hhi⟩ := Laws.chooseCoarse_range p d (refineCost p d fine (unitOf i)) (unitOf i)
  unfold refineResidual
  split
  · decide
  · exact abs_residualOf_lt (abs_idealDelay_lt p hin hel i) (hfine i) (abs_coarse_mul_lt hlo hhi)

/-- FINE after a committed SOLVE: new entries are computed ones, the others stay (R175, R185). -/
theorem solvedFine_bounded {old : Vector Word 256} (hold : FineBounded p old) :
    FineBounded p (solvedFine p d old) := by
  intro i
  rw [solvedFine, Laws.dipoleTable_getElem_fin]
  split
  · have hfine := abs_committedFine_mul_lt p hin hel i
    rwa [toInt_to32_fine hfine]
  · exact hold i

end Commands

/-! ### The diagnostics (R184) -/

theorem maxAbs_lt {resid : Dipole → Int} {bound : Nat} (hpos : 0 < bound) :
    ∀ {l : List Dipole}, (∀ i ∈ l, (resid i).natAbs < bound) → maxAbs resid l < bound
  | [], _ => hpos
  | i :: is, h => max_lt (h i (by simp)) (maxAbs_lt hpos fun j hj => h j (by simp [hj]))

theorem sumSquares_le {resid : Dipole → Int} {bound : Nat} :
    ∀ {l : List Dipole}, (∀ i ∈ l, (resid i).natAbs ≤ bound) → sumSquares resid l ≤ l.length * bound ^ 2
  | [], _ => by simp [sumSquares]
  | i :: is, h => by
    have hhead : (resid i).natAbs ^ 2 ≤ bound ^ 2 := Nat.pow_le_pow_left (h i (by simp)) 2
    have htail := sumSquares_le (l := is) fun j hj => h j (by simp [hj])
    rw [sumSquares, List.length_cons, Nat.succ_mul]
    omega

theorem length_validDipoles_le (d : SolverIn) : (validDipoles d).length ≤ 256 :=
  (List.length_filter_le _ _).trans_eq (List.length_finRange)

/-- The sum of 256 squares, each below `2^60` (R176). -/
theorem sumSquares_validDipoles_lt (d : SolverIn) {resid : Dipole → Int} (hresid : ∀ i, |resid i| < 2 ^ 30) :
    sumSquares resid (validDipoles d) < 2 ^ 68 := by
  have hbound : ∀ i ∈ validDipoles d, (resid i).natAbs ≤ 2 ^ 30 - 1 := fun i _ =>
    Nat.le_sub_one_of_lt (natAbs_lt_of_abs_lt (hresid i))
  calc sumSquares resid (validDipoles d) ≤ (validDipoles d).length * (2 ^ 30 - 1) ^ 2 := sumSquares_le hbound
    _ ≤ 256 * (2 ^ 30 - 1) ^ 2 := Nat.mul_le_mul_right _ (length_validDipoles_le d)
    _ < 2 ^ 68 := by norm_num

/-- A sum that fits 96 bits is what the three registers of SUMSQ hold (10_state.md R41). -/
theorem sumsqValue_committedOut {d : SolverIn} {old : SolverOut} {coarse : Unit16 → Int} {resid : Dipole → Int}
    {disabled : Nat} (h : sumSquares resid (validDipoles d) < 2 ^ 96) :
    sumsqValue (committedOut d old coarse resid disabled) = sumSquares resid (validDipoles d) := by
  simp only [sumsqValue, committedOut, BitVec.toNat_ofNat]
  omega

/-- The outputs of a committed solve are within their bounds when the coarse delays it chose and the residuals are; a
unit without a valid dipole keeps its COARSE (R175, R184, R185). -/
theorem committedOut_bounded {p : Params} {d : SolverIn} {old : SolverOut} {coarse : Unit16 → Int}
    {resid : Dipole → Int} {disabled : Nat} (hold : OutputsBounded p old)
    (hcoarse : ∀ u, coarseMin p ≤ coarse u ∧ coarse u ≤ coarseMax p) (hresid : ∀ i, |resid i| < 2 ^ 30)
    (hdisabled : disabled ≤ 256) : OutputsBounded p (committedOut d old coarse resid disabled) where
  coarse u := by
    obtain ⟨hlo, hhi⟩ := hcoarse u
    simp only [committedOut, Laws.tabulate_getElem_fin, Fin.ofNat_eq_cast, Fin.cast_val_eq_self]
    split
    · exact hold.coarse u
    · rw [toInt_to32_coarse hlo hhi]
      exact ⟨hlo, hhi⟩
  err i := by
    simp only [committedOut, Laws.dipoleTable_getElem_fin]
    split
    · rw [SignedBelow, toInt_to32_of_abs_lt (hresid i)]
      exact abs_lt.1 (hresid i)
    · constructor <;> decide
  disabled := by
    simp only [committedOut, BitVec.toNat_ofNat]
    omega
  maxerr := by
    have hmax : maxAbs resid (validDipoles d) < 2 ^ 30 :=
      maxAbs_lt (by decide) fun i _ => natAbs_lt_of_abs_lt (hresid i)
    simp only [committedOut, BitVec.toNat_ofNat]
    omega
  sumsq := by
    have hsum := sumSquares_validDipoles_lt d hresid
    rwa [sumsqValue_committedOut (by omega)]

/-- SOLVE and REFINE count some of the valid dipoles (R183, R188). -/
theorem length_filter_validDipoles_le (d : SolverIn) (q : Dipole → Bool) :
    ((validDipoles d).filter q).length ≤ 256 :=
  (List.length_filter_le _ _).trans (length_validDipoles_le d)

end Sys2Proof.Proofs.SolverBounds
end

section
/-! PROOF. The invariant of the block (10_state.md, Safety.lean): it holds after reset and every step keeps it. Each
operation of the state keeps it, then each command, then the step. -/

namespace Sys2Proof.Proofs.Invariant

open Sys2Proof Sys2Proof.Machine

/-! ### Reset (R45) -/

theorem inv_reset (p : Params) : Inv p State.reset where
  lastCode := ⟨.ok, rfl⟩
  csu := by constructor <;> decide
  tx := by constructor <;> simp [State.reset]
  rx := by constructor <;> simp [State.reset]
  inputs := by constructor <;> simp [State.reset, SignedBelow]
  fine i := by simp [State.reset]
  outputs := by
    have hh := p.h_le
    constructor <;> simp [State.reset, SignedBelow, sumsqValue, coarseMin, coarseMax]
    omega

/-- Settles O59. -/
theorem resetStateMeetsTheInvariant : Obligations.ResetStateMeetsTheInvariant := inv_reset Config.params

/-- After a reset the lists of port traffic stay, and the invariant does not speak of them (log 5). -/
theorem inv_resetBlock (p : Params) (s : State) : Inv p (resetBlock s) := by
  have h := inv_reset p
  constructor
  case lastCode => simpa using h.lastCode
  case csu => simpa using h.csu
  case tx => simpa using h.tx
  case rx => simpa using h.rx
  case inputs => simpa using h.inputs
  case fine => simpa using h.fine
  case outputs => simpa using h.outputs

section Operations

variable {p : Params} {s : State}

/-! ### Answers and faults -/

theorem inv_takeArrival (h : Inv p s) (rest : List Arrival) : Inv p { s with pending := rest } := { h with }

theorem inv_pushResponse (h : Inv p s) (c : Code) (v : Word) : Inv p (s.pushResponse c v) := { h with }

theorem inv_raiseFaultBit (h : Inv p s) (c : Code) : Inv p (s.raiseFaultBit c) := { h with }

theorem inv_setLastCode (h : Inv p s) (c : Code) : Inv p (s.setLastCode c) :=
  { h with lastCode := ⟨c, rfl⟩, tx := { h.tx with }, rx := { h.rx with } }

theorem inv_setResValid (h : Inv p s) (b : Bool) : Inv p (s.setResValid b) :=
  { h with tx := { h.tx with }, rx := { h.rx with } }

theorem inv_respond (h : Inv p s) (c : Code) (v : Word) : Inv p (respond c v s) :=
  inv_pushResponse (inv_setLastCode h c) c v

theorem inv_respondQuietly (h : Inv p s) (c : Code) (v : Word) : Inv p (respondQuietly c v s) :=
  inv_pushResponse h c v

theorem inv_faultOut (h : Inv p s) (c : Code) : Inv p (faultOut c s) :=
  inv_pushResponse (inv_setLastCode (inv_raiseFaultBit h c) c) c 0

theorem inv_failSolve (h : Inv p s) (c : Code) : Inv p (failSolve c s) :=
  inv_respond (inv_setResValid h false) c 0

/-! ### The checksum unit (10_state.md R26) -/

theorem inv_setCsu (h : Inv p s) {c : Csu} (hc : CsuBounded c) : Inv p (s.setCsu c) := { h with csu := hc }

/-- One more byte adds at most 255 to CS_SUM8 and at most 255·256 to CS_SUM16; with fewer than 65535 bytes absorbed
neither sum nor the count wraps (41_checksum.md R126). -/
theorem absorb_bounded (b : Byte) {c : Csu} (h : CsuBounded c) (hcnt : c.cnt.toNat ≠ 65535) :
    CsuBounded (absorb b c) := by
  obtain ⟨hsum8, hsum16⟩ := h
  have hb := b.isLt
  have hlt := c.cnt.isLt
  have hcount : (c.cnt + 1).toNat = c.cnt.toNat + 1 := by bv_omega
  have hlow : (b.setWidth 32).toNat = b.toNat := BitVec.toNat_setWidth_of_le (by decide)
  have hhigh : (256 * b.setWidth 32 : Word).toNat = 256 * b.toNat := by
    rw [BitVec.toNat_mul, hlow]
    exact Nat.mod_eq_of_lt (by simp; omega)
  constructor
  · simp only [absorb, hcount, BitVec.toNat_add, hlow]
    omega
  · simp only [absorb, hcount]
    split
    · rw [BitVec.toNat_add, hlow]
      omega
    · rw [BitVec.toNat_add, hhigh]
      omega

/-! ### The transmit side (R28) -/

theorem length_stuffByte (p : Params) (b : Byte) :
    1 ≤ (stuffByte p b).length ∧ (stuffByte p b).length ≤ 2 := by
  unfold stuffByte
  split <;> simp

/-- Escaping makes of each byte one or two (30_encoding.md R89). -/
theorem length_flatMap_stuffByte (p : Params) (bs : List Byte) :
    bs.length ≤ (bs.flatMap (stuffByte p)).length ∧ (bs.flatMap (stuffByte p)).length ≤ 2 * bs.length := by
  induction bs with
  | nil => simp
  | cons b bs ih =>
    have hb := length_stuffByte p b
    simp only [List.flatMap_cons, List.length_append, List.length_cons]
    omega

/-- An image begins with START and has four header bytes after it, and at most the payload and its checksum (R141). -/
theorem image_eq_start_cons (p : Params) (ctrl cmd : Byte) (pay : List Byte) :
    ∃ rest, image p ctrl cmd pay = p.start :: rest ∧ 4 ≤ rest.length ∧ rest.length ≤ pay.length + 6 := by
  unfold image header
  split
  · exact ⟨_, rfl, by simp⟩
  · exact ⟨_, rfl, by simp⟩

theorem length_stagedPayload_le (t : Tx) : (stagedPayload t).length ≤ 255 :=
  (List.length_take_le' _ _).trans_eq (Vector.length_toList)

/-- The raw frame that FENC stores: START first, at least 5 bytes, and at most the 523 of TXRAW (R144, R28). -/
theorem stagedRaw_eq_start_cons (p : Params) (t : Tx) :
    ∃ rest, stagedRaw p t = p.start :: rest ∧ 4 ≤ rest.length ∧ rest.length ≤ 522 := by
  obtain ⟨rest, himage, hlo, hhi⟩ := image_eq_start_cons p t.ctrl t.cmd (stagedPayload t)
  have hpay := length_stagedPayload_le t
  have hstuff := length_flatMap_stuffByte p rest
  exact ⟨rest.flatMap (stuffByte p), by rw [stagedRaw, himage, stuff], by omega, by omega⟩

/-- TXRAW for a raw frame that begins with START and fits it (R144). -/
theorem txShape_storeRaw (st : Status) {rest : List Byte} (hlo : 4 ≤ rest.length) (hhi : rest.length ≤ 522) :
    TxShape p st (s.storeRaw (p.start :: rest)).tx := by
  have hlen : (s.storeRaw (p.start :: rest)).tx.rawLen.toNat = rest.length + 1 := by
    rw [Laws.storeRaw_tx_rawLen, BitVec.toNat_ofNat, List.length_cons]
    omega
  refine ⟨?rawLen, fun k hk => ?rawZero, fun _ => ⟨?long, ?start⟩⟩
  case rawZero =>
    rw [hlen] at hk
    simp only [Laws.storeRaw_tx_raw, Fin.getElem_fin, Laws.rawTable_getElem]
    exact List.getD_eq_default _ _ hk
  case start =>
    simp only [Laws.storeRaw_tx_raw, Laws.rawTable_getElem]
    rfl
  all_goals omega

/-- FENC stores a raw frame and sets TX_VALID (R144). -/
theorem inv_storeRaw (h : Inv p s) {rest : List Byte} (hlo : 4 ≤ rest.length) (hhi : rest.length ≤ 522) :
    Inv p ((s.storeRaw (p.start :: rest)).setTxValid true) where
  lastCode := by simpa using h.lastCode
  csu := by simpa using h.csu
  tx := by
    rw [Laws.setTxValid_tx]
    exact txShape_storeRaw _ hlo hhi
  rx := by
    rw [Laws.setTxValid_rx, Laws.storeRaw_rx]
    exact { h.rx with }
  inputs := by simpa using h.inputs
  fine := by simpa using h.fine
  outputs := by simpa using h.outputs

/-! ### The receive side (R29 to R32) -/

/-- RXBUF and RX_IDLE change; the received frame registers stay. -/
theorem inv_setRxBuf (h : Inv p s) {buf : List Byte} {idle : BitVec 2} (hbuf : buf.length ≤ p.rxbufCap)
    (hidle : idle.toNat ≤ 2) : Inv p (s.setRxBuf buf idle) :=
  { h with rx := { h.rx with bufLen := hbuf, idle := hidle } }

/-- With RX_VALID 0 the received frame registers need not speak of a frame. -/
theorem inv_setRxValid_false (h : Inv p s) : Inv p (s.setRxValid false) :=
  { h with tx := { h.tx with }, rx := { h.rx with flags := nofun, shortCs16 := nofun } }

theorem nextIdle_le (idle : BitVec 2) : (nextIdle idle).toNat ≤ 2 := by
  rw [nextIdle, BitVec.toNat_ofNat]
  omega

theorem length_resync_le (p : Params) (buf : List Byte) : (resync p buf).length ≤ buf.length :=
  (Laws.resync_suffix p buf).length_le

/-- A complete scan has a START in front of it and the size that its length byte gives (R148, R90). -/
theorem length_of_scan_complete {buf : List Byte} (h : (scan p buf).complete = true) :
    5 + frameLen (scan p buf).bytes ≤ (scan p buf).bytes.length := by
  cases buf with
  | nil => exact absurd h Bool.false_ne_true
  | cons b rest =>
    obtain ⟨-, -, -, hsize⟩ := Laws.scan_spec p b rest
    rw [hsize h, totalSize, frameLen]
    split <;> simp_all

/-- The first RX_LEN entries of RX_PAY are the received payload (R151). -/
theorem take_payTable {u : List Byte} (hlen : 5 + frameLen u ≤ u.length) :
    (payTable u).toList.take (frameLen u) = framePayload u := by
  have hbyte : frameLen u ≤ 255 := Nat.le_of_lt_succ (u.getD 3 0).isLt
  unfold framePayload
  refine List.ext_getElem ?length fun k hk hk' => ?byte
  case length =>
    simp only [List.length_take, List.length_drop, Vector.length_toList]
    omega
  case byte =>
    have hpay : k < frameLen u := hk'.trans_le (List.length_take_le _ _)
    simp only [List.getElem_take, Vector.getElem_toList, Laws.payTable_getElem, if_pos hpay, List.getElem_drop]
    exact List.getD_eq_getElem _ _ (by omega)

theorem frameLen_eq_zero {u : List Byte} : frameLen u = 0 ↔ u.getD 3 0 = 0 :=
  (BitVec.toNat_eq (y := 0)).symm

/-- Delivery of an unescaped frame of the right size: RX_PAY is 0 beyond its payload, and the flags say of the
registers what R32 says (R151). -/
theorem inv_deliver (h : Inv p s) {u : List Byte} (hlen : 5 + frameLen u ≤ u.length) :
    Inv p ((s.deliver u).setRxValid true) := by
  refine { h with tx := { h.tx with }, rx := ⟨h.rx.bufLen, h.rx.idle, ?payZero, ?flags, ?shortCs16⟩ }
  case payZero =>
    intro k hk
    simp only [Laws.setRxValid_rx, Laws.deliver_rx_pay, Laws.deliver_rx_len, Fin.getElem_fin,
      Laws.payTable_getElem] at hk ⊢
    exact if_neg (Nat.not_lt.2 hk)
  case flags =>
    intro _
    have hshort : (frameLen u == 0) = (u.getD 3 0 == 0) := by
      rw [Bool.eq_iff_iff, beq_iff_eq, beq_iff_eq, frameLen_eq_zero]
    have hlong : (frameLen u != 0) = (u.getD 3 0 != 0) := by rw [bne, bne, hshort]
    simp only [Laws.setRxValid_rx, Laws.deliver_rx_pay, Laws.deliver_rx_len, Laws.deliver_rx_flags,
      Laws.deliver_rx_cs16, Laws.deliver_rx_cs8, Laws.deliver_rx_ctrl, Laws.deliver_rx_cmd]
    rw [frameFlags, payloadOk, headerOk, hshort, hlong, ← take_payTable hlen, frameLen]
  case shortCs16 =>
    intro _ hshort
    simp [frameCs16, frameLen_eq_zero.2 hshort]

/-! ### WR (R44) -/

/-- What holds of every entry of a table holds after one entry is set to a value of which it holds. -/
theorem forall_getElem_set {n : Nat} {q : Word → Prop} {v : Vector Word n} (h : ∀ i : Fin n, q v[i]) (k : Fin n)
    {w : Word} (hw : q w) : ∀ i : Fin n, q (v.set k.val w)[i] := by
  intro i
  rw [Fin.getElem_fin, Vector.getElem_set]
  split
  · exact hw
  · exact h i

/-- A WR of a legal value keeps the inputs legal: each range of R44 is the one the invariant asks for. -/
theorem inputsLegal_writeReg (h : InputsLegal s.din) {r : Reg} {d : Word} (hlegal : legalValue r d = true) :
    InputsLegal (writeReg r d s).din := by
  cases r with
  | offX => exact { h with offX := RegisterMap.within_iff.1 hlegal }
  | offY => exact { h with offY := RegisterMap.within_iff.1 hlegal }
  | offZ => exact { h with offZ := RegisterMap.within_iff.1 hlegal }
  | posX i => exact { h with posX := forall_getElem_set h.posX i (RegisterMap.within_iff.1 hlegal) }
  | posY i => exact { h with posY := forall_getElem_set h.posY i (RegisterMap.within_iff.1 hlegal) }
  | posZ i => exact { h with posZ := forall_getElem_set h.posZ i (RegisterMap.within_iff.1 hlegal) }
  | corr u => exact { h with corr := forall_getElem_set h.corr u (RegisterMap.within_iff.1 hlegal) }
  | _ => exact { h with }

/-- A fine delay that the host writes is in -16..16 (R38). -/
theorem fineBounded_writeReg (h : FineBounded p s.fine) {r : Reg} {d : Word} (hlegal : legalValue r d = true) :
    FineBounded p (writeReg r d s).fine := by
  cases r with
  | fine i =>
    obtain ⟨hlo, hhi⟩ : -16 ≤ d.toInt ∧ d.toInt ≤ 16 := by simpa [legalValue] using hlegal
    exact forall_getElem_set (q := fun w => |w.toInt * (p.fs : Int)| < 2 ^ 28 + 2 ^ 24) h i
      (SolverBounds.abs_fine_mul_lt p hlo hhi)
  | _ => exact h

/-- A WR does not reach TXRAW. -/
theorem txShape_writeReg {st : Status} (h : TxShape p st s.tx) (r : Reg) (d : Word) :
    TxShape p st (writeReg r d s).tx := by
  cases r <;> exact { h with }

theorem inv_writeReg (h : Inv p s) {r : Reg} {d : Word} (hlegal : legalValue r d = true) : Inv p (writeReg r d s) where
  lastCode := by simpa using h.lastCode
  csu := by simpa using h.csu
  tx := by simpa using txShape_writeReg h.tx r d
  rx := by simpa using h.rx
  inputs := inputsLegal_writeReg h.inputs hlegal
  fine := fineBounded_writeReg h.fine hlegal
  outputs := by simpa using h.outputs

/-! ### The solver's commit (R176, R185) -/

theorem inv_commit (h : Inv p s) {fine : Vector Word 256} {out : SolverOut} (hfine : FineBounded p fine)
    (hout : OutputsBounded p out) : Inv p (s.commit fine out) :=
  { h with fine := hfine, outputs := hout, tx := { h.tx with }, rx := { h.rx with } }

/-! ### The commands, by the cases of each -/

theorem inv_rdOp (h : Inv p s) (a : RegAddr) : Inv p (rdOp p a s) := by
  rcases Laws.rdOp_cases p a s with ⟨-, hfault⟩ | ⟨r, -, hread⟩
  · exact hfault ▸ inv_faultOut h _
  · exact hread ▸ inv_respondQuietly h _ _

theorem inv_wrOp (h : Inv p s) (a : RegAddr) (d : Word) : Inv p (wrOp a d s) := by
  rcases Laws.wrOp_cases a d s with ⟨-, hfault⟩ | ⟨r, -, -, -, hfault⟩ | ⟨r, -, -, hlegal, hwrite⟩
  · exact hfault ▸ inv_faultOut h _
  · exact hfault ▸ inv_faultOut h _
  · exact hwrite ▸ inv_respond (inv_writeReg h hlegal) _ _

theorem inv_csclrOp (h : Inv p s) : Inv p (csclrOp s) :=
  inv_respond (inv_setCsu h ⟨by decide, by decide⟩) _ _

theorem inv_cspushOp (h : Inv p s) (b : Byte) : Inv p (cspushOp b s) := by
  rcases Laws.cspushOp_cases b s with ⟨-, hfault⟩ | ⟨hcnt, habsorb⟩
  · exact hfault ▸ inv_faultOut h _
  · exact habsorb ▸ inv_respond (inv_setCsu h (absorb_bounded b h.csu hcnt)) _ _

theorem inv_fencOp (h : Inv p s) : Inv p (fencOp p s) := by
  obtain ⟨rest, hraw, hlo, hhi⟩ := stagedRaw_eq_start_cons p s.tx
  rw [fencOp, hraw]
  exact inv_respond (inv_storeRaw h hlo hhi) _ _

theorem inv_rxdataOp (h : Inv p s) (b : Byte) : Inv p (rxdataOp p b s) := by
  rcases Laws.rxdataOp_cases p b s with ⟨-, hfault⟩ | ⟨hroom, happend⟩
  · exact hfault ▸ inv_faultOut h _
  · have hlen : (s.rx.buf ++ [b]).length ≤ p.rxbufCap := by
      have := h.rx.bufLen
      rw [List.length_append, List.length_singleton]
      omega
    exact happend ▸ inv_respond (inv_setRxBuf h hlen (by decide)) _ _

theorem inv_rxidleOp (h : Inv p s) : Inv p (rxidleOp s) :=
  inv_respond (inv_setRxBuf h h.rx.bufLen (nextIdle_le _)) _ _

theorem inv_rxflushOp (h : Inv p s) : Inv p (rxflushOp s) :=
  inv_respond (inv_setRxValid_false (inv_setRxBuf h (Nat.zero_le _) (by decide))) _ _

theorem inv_fdecOp (h : Inv p s) : Inv p (fdecOp p s) := by
  have hresync := (length_resync_le p s.rx.buf).trans h.rx.bufLen
  rcases Laws.fdecOp_cases p s with ⟨hcomplete, hdeliver⟩ | ⟨-, -, htimeout⟩ | ⟨-, -, hwait⟩
  · have hrest : ((resync p s.rx.buf).drop (Laws.scanned p s).taken).length ≤ p.rxbufCap := by
      rw [List.length_drop]
      omega
    have hframe := inv_deliver h (length_of_scan_complete hcomplete)
    exact hdeliver ▸ inv_respond (inv_setRxBuf hframe hrest (by decide)) _ _
  · exact htimeout ▸ inv_respond (inv_setRxValid_false (inv_setRxBuf h (Nat.zero_le _) (by decide))) _ _
  · exact hwait ▸ inv_respond (inv_setRxValid_false (inv_setRxBuf h hresync h.rx.idle)) _ _

theorem inv_solveOp (h : Inv p s) : Inv p (solveOp p s) := by
  rcases Laws.solveOp_cases p s with ⟨-, hfail⟩ | ⟨-, -, hfail⟩ | ⟨-, -, -, -, hfail⟩ | ⟨hel, -, -, hcommit⟩
  · exact hfail ▸ inv_failSolve h _
  · exact hfail ▸ inv_failSolve h _
  · exact hfail ▸ inv_failSolve h _
  · have hout := SolverBounds.committedOut_bounded (d := s.din) (disabled := solveDisabled p s.din) h.outputs
      (fun u => Laws.chooseCoarse_range p s.din (solveCost p s.din u) u)
      (SolverBounds.abs_solveResidual_lt p h.inputs hel)
      (SolverBounds.length_filter_validDipoles_le s.din _)
    exact hcommit ▸ inv_respond (inv_commit h (SolverBounds.solvedFine_bounded p h.inputs hel h.fine) hout) _ _

theorem inv_refineOp (h : Inv p s) : Inv p (refineOp p s) := by
  rcases Laws.refineOp_cases p s with ⟨-, hfail⟩ | ⟨-, -, hfail⟩ | ⟨-, -, -, -, hfail⟩ | ⟨hel, -, -, hcommit⟩
  · exact hfail ▸ inv_failSolve h _
  · exact hfail ▸ inv_failSolve h _
  · exact hfail ▸ inv_failSolve h _
  · have hout := SolverBounds.committedOut_bounded (d := s.din) (disabled := refineDisabled s.din s.fine) h.outputs
      (fun u => Laws.chooseCoarse_range p s.din (refineCost p s.din s.fine u) u)
      (SolverBounds.abs_refineResidual_lt p h.inputs hel h.fine)
      (SolverBounds.length_filter_validDipoles_le s.din _)
    exact hcommit ▸ inv_respond (inv_commit h h.fine hout) _ _

end Operations

/-! ### The step -/

/-- Every instruction answers a next state, and it meets the invariant. -/
theorem exec_inv (i : Instr) {s : State} (h : Inv Config.params s) :
    ∃ t, exec i s = .next t ∧ Inv Config.params t := by
  cases i with
  | nop => exact ⟨_, Laws.exec_nop s, inv_respondQuietly h _ _⟩
  | rd a => exact ⟨_, Laws.exec_rd a s, inv_rdOp h a⟩
  | wr a d => exact ⟨_, Laws.exec_wr a d s, inv_wrOp h a d⟩
  | csclr => exact ⟨_, Laws.exec_csclr s, inv_csclrOp h⟩
  | cspush b => exact ⟨_, Laws.exec_cspush b s, inv_cspushOp h b⟩
  | csrd8 => exact ⟨_, Laws.exec_csrd8 s, inv_respond h _ _⟩
  | csrd16 => exact ⟨_, Laws.exec_csrd16 s, inv_respond h _ _⟩
  | fenc => exact ⟨_, Laws.exec_fenc s, inv_fencOp h⟩
  | rxdata b => exact ⟨_, Laws.exec_rxdata b s, inv_rxdataOp h b⟩
  | rxidle => exact ⟨_, Laws.exec_rxidle s, inv_rxidleOp h⟩
  | fdec => exact ⟨_, Laws.exec_fdec s, inv_fdecOp h⟩
  | rxflush => exact ⟨_, Laws.exec_rxflush s, inv_rxflushOp h⟩
  | solve => exact ⟨_, Laws.exec_solve s, inv_solveOp h⟩
  | refine => exact ⟨_, Laws.exec_refine s, inv_refineOp h⟩
  | reset => exact ⟨_, Laws.exec_reset s, inv_respond (inv_resetBlock _ s) _ _⟩

/-- Every step answers a next state, and it meets the invariant: idle, an illegal word, an instruction, or a reset. -/
theorem step_inv {s : State} (h : Inv Config.params s) : ∃ t, step s = .next t ∧ Inv Config.params t := by
  rcases Laws.step_cases s with ⟨-, hidle⟩ | ⟨_, rest, _, -, -, hillegal⟩ | ⟨_, rest, i, -, -, hexec⟩ |
    ⟨_, rest, -, -, hreset⟩
  · exact ⟨s, hidle, h⟩
  · exact ⟨_, hillegal, inv_faultOut (inv_takeArrival h rest) _⟩
  · exact hexec ▸ exec_inv i (inv_takeArrival h rest)
  · exact ⟨_, hreset, inv_resetBlock _ _⟩

/-- Settles O60: the state that the step answers is the one of `step_inv`. -/
theorem stepKeepsTheInvariant : Obligations.StepKeepsTheInvariant := by
  intro s t h hstep
  obtain ⟨t', hnext, ht'⟩ := step_inv h
  obtain rfl : t' = t := Host.Outcome.next.inj (hnext.symm.trans hstep)
  exact ht'

end Sys2Proof.Proofs.Invariant
end

section
/-! PROOF. The obligations of 30_encoding.md: the command word and its decoder (R80 to R84), the opcode map as a table of
match and mask (R83), the response word (R82), and the one answer to every command word (R82, R84, R221). -/

namespace Sys2Proof.Proofs.Encoding

open Sys2Proof Sys2Proof.Machine

/-! ### The word of an instruction (R80, R81) -/

/-- The word with every field that the form does not use at zero (R81). -/
def operandWord (f : Form) (cw : PortWord) : PortWord :=
  packWord (if f = .ad then dataField cw else 0) (if f = .a ∨ f = .ad then addrField cw else 0)
    (if f = .i then imm8Field cw else 0) (opField cw)

/-- The check of R81 passes when each field is zero or used by the form. -/
theorem unusedFieldError_eq_none_iff (f : Form) (cw : PortWord) :
    unusedFieldError f cw = none ↔
      (f = .i ∨ imm8Field cw = 0) ∧ (f = .a ∨ f = .ad ∨ addrField cw = 0) ∧ (f = .ad ∨ dataField cw = 0) := by
  unfold unusedFieldError
  cases f <;> grind

/-- A word that passes the check of R81 loses nothing when its unused fields are cleared. -/
theorem operandWord_of_unused_zero {f : Form} {cw : PortWord} (h : unusedFieldError f cw = none) :
    operandWord f cw = cw := by
  rw [unusedFieldError_eq_none_iff] at h
  calc operandWord f cw = packWord (dataField cw) (addrField cw) (imm8Field cw) (opField cw) := by
        cases f <;> simp_all [operandWord]
    _ = cw := Laws.packWord_fields cw

/-! ### The operation an `op` value names (R83) -/

theorem opField_encode (i : Instr) : opField (encode i) = opcode i := by
  cases i <;> exact Laws.opField_packWord _ _ _ _

/-- The operation is read back from the word of an instruction, each operand from its own field. -/
theorem instrOfOp_encode (i : Instr) : instrOfOp (encode i) = some i := by
  unfold instrOfOp
  rw [opField_encode]
  cases i <;>
    simp [opcode, encode, Laws.imm8Field_packWord, Laws.addrField_packWord, Laws.dataField_packWord]

theorem opField_of_instrOfOp {cw : PortWord} {i : Instr} (h : instrOfOp cw = some i) : opField cw = opcode i := by
  unfold instrOfOp at h
  apply BitVec.eq_of_toNat_eq
  split at h
  case h_16 => simp at h
  all_goals
    obtain rfl := Option.some.inj h
    assumption

/-- The instruction that a word names keeps the word's `op` and the fields that its form uses. -/
theorem encode_of_instrOfOp {cw : PortWord} {i : Instr} (h : instrOfOp cw = some i) :
    encode i = operandWord i.form cw := by
  have hop := opField_of_instrOfOp h
  unfold instrOfOp at h
  cases i <;> simp_all [opcode, encode, operandWord, Instr.form]

/-! ### The two round trips (R80, R81, R84) -/

theorem decode_eq_ok_iff (cw : PortWord) (i : Instr) :
    decode cw = .ok i ↔ instrOfOp cw = some i ∧ unusedFieldError i.form cw = none := by
  unfold decode
  cases instrOfOp cw with
  | none => simp
  | some j =>
    simp only [Option.some.injEq]
    constructor
    · intro h
      split at h
      next => cases h
      next hunused =>
        obtain rfl := Except.ok.inj h
        exact ⟨rfl, hunused⟩
    · rintro ⟨rfl, hunused⟩
      rw [hunused]

theorem unusedFieldError_encode (i : Instr) : unusedFieldError i.form (encode i) = none := by
  cases i with
  | nop => exact Laws.UnusedFieldsZero.nop
  | rd a => exact Laws.UnusedFieldsZero.rd a
  | wr a d => exact Laws.UnusedFieldsZero.wr a d
  | csclr => exact Laws.UnusedFieldsZero.csclr
  | cspush b => exact Laws.UnusedFieldsZero.cspush b
  | csrd8 => exact Laws.UnusedFieldsZero.csrd8
  | csrd16 => exact Laws.UnusedFieldsZero.csrd16
  | fenc => exact Laws.UnusedFieldsZero.fenc
  | rxdata b => exact Laws.UnusedFieldsZero.rxdata b
  | rxidle => exact Laws.UnusedFieldsZero.rxidle
  | fdec => exact Laws.UnusedFieldsZero.fdec
  | rxflush => exact Laws.UnusedFieldsZero.rxflush
  | solve => exact Laws.UnusedFieldsZero.solve
  | refine => exact Laws.UnusedFieldsZero.refine
  | reset => exact Laws.UnusedFieldsZero.reset

/-- Settles O4: the operation and its operands are read back, and no unused field of the word is set. -/
theorem decodeEncodeRoundTrip : Obligations.DecodeEncodeRoundTrip := fun i =>
  (decode_eq_ok_iff _ i).2 ⟨instrOfOp_encode i, unusedFieldError_encode i⟩

/-- Settles O5: the instruction keeps the fields that its form uses, and a word that decodes has no others. -/
theorem encodeDecodeRoundTrip : Obligations.EncodeDecodeRoundTrip := by
  intro cw i h
  obtain ⟨hname, hunused⟩ := (decode_eq_ok_iff cw i).1 h
  exact (encode_of_instrOfOp hname).trans (operandWord_of_unused_zero hunused)

/-- Settles O6: the legal words printed in the spec are the words of their instructions. -/
theorem decodeReadsTheSpecsWords : Obligations.DecodeReadsTheSpecsWords :=
  ⟨decodeEncodeRoundTrip .fdec, decodeEncodeRoundTrip (.cspush 0x7E), decodeEncodeRoundTrip (.rd 0x0001),
    decodeEncodeRoundTrip (.wr 0x1001 0x005A0000), decodeEncodeRoundTrip (.rxdata 0x7E), decodeEncodeRoundTrip .solve,
    decodeEncodeRoundTrip .reset, by decide, by decide, by decide⟩

/-! ### The opcode map (R83) -/

theorem packWord_and (d d' : Word) (a a' : RegAddr) (b b' : Byte) (o o' : BitVec 8) :
    packWord d a b o &&& packWord d' a' b' o' = packWord (d &&& d') (a &&& a') (b &&& b') (o &&& o') := by
  change ((d ++ a ++ b ++ o) &&& (d' ++ a' ++ b' ++ o') : BitVec (32 + 16 + 8 + 8)) = _
  rw [BitVec.and_append, BitVec.and_append, BitVec.and_append, packWord]

theorem packWord_inj {d d' : Word} {a a' : RegAddr} {b b' : Byte} {o o' : BitVec 8} :
    packWord d a b o = packWord d' a' b' o' ↔ d = d' ∧ a = a' ∧ b = b' ∧ o = o' := by
  constructor
  · intro h
    exact ⟨by simpa only [Laws.dataField_packWord] using congrArg dataField h,
      by simpa only [Laws.addrField_packWord] using congrArg addrField h,
      by simpa only [Laws.imm8Field_packWord] using congrArg imm8Field h,
      by simpa only [Laws.opField_packWord] using congrArg opField h⟩
  · rintro ⟨rfl, rfl, rfl, rfl⟩
    rfl

/-- The mask of a form: `op` and every field that the form does not use (R83). -/
def formMask (f : Form) : PortWord :=
  packWord (if f = .ad then 0 else BitVec.allOnes 32) (if f = .a ∨ f = .ad then 0 else BitVec.allOnes 16)
    (if f = .i then 0 else BitVec.allOnes 8) (BitVec.allOnes 8)

/-- Every row's match is its `op` with all other fields zero, and its mask is the mask of its form. -/
theorem row_pattern_and_mask : ∀ r ∈ opcodeMap, r.pattern = packWord 0 0 0 r.op ∧ r.mask = formMask r.form := by
  decide

theorem and_ite_allOnes_eq_zero {w : Nat} (c : Prop) [Decidable c] (x : BitVec w) :
    x &&& (if c then 0 else BitVec.allOnes w) = 0 ↔ c ∨ x = 0 := by
  split_ifs with hc <;> simp [hc]

/-- Under the mask of a form a word is `op` alone when its `op` is that and its unused fields are zero. -/
theorem and_formMask_eq_iff (f : Form) (o : BitVec 8) (cw : PortWord) :
    cw &&& formMask f = packWord 0 0 0 o ↔ opField cw = o ∧ unusedFieldError f cw = none := by
  conv_lhs => rw [← Laws.packWord_fields cw]
  rw [formMask, packWord_and, packWord_inj, BitVec.and_allOnes, unusedFieldError_eq_none_iff]
  simp only [and_ite_allOnes_eq_zero, or_assoc]
  exact ⟨fun ⟨hdata, haddr, himm8, hop⟩ => ⟨hop, himm8, haddr, hdata⟩,
    fun ⟨hop, himm8, haddr, hdata⟩ => ⟨hdata, haddr, himm8, hop⟩⟩

theorem mem_rowsOf (cw : PortWord) (r : OpRow) :
    r ∈ rowsOf cw ↔ r ∈ opcodeMap ∧ opField cw = r.op ∧ unusedFieldError r.form cw = none := by
  rw [rowsOf, List.mem_filter, beq_iff_eq]
  refine and_congr_right fun hr => ?_
  obtain ⟨hpattern, hmask⟩ := row_pattern_and_mask r hr
  rw [hpattern, hmask, and_formMask_eq_iff]

theorem opcodeMap_ops_nodup : (opcodeMap.map OpRow.op).Nodup := by decide

/-- No two rows select one word: their `op` values differ. -/
theorem rowsOf_eq_singleton {cw : PortWord} {r : OpRow} (hr : r ∈ rowsOf cw) : rowsOf cw = [r] := by
  have hnodup : (rowsOf cw).Nodup := (List.Nodup.of_map _ opcodeMap_ops_nodup).filter _
  refine List.perm_singleton.1 ((List.perm_ext_iff_of_nodup hnodup (List.nodup_singleton r)).2 fun r' => ?_)
  rw [List.mem_singleton]
  refine ⟨fun hr' => ?_, fun h => h ▸ hr⟩
  obtain ⟨hmem, hop, -⟩ := (mem_rowsOf cw r).1 hr
  obtain ⟨hmem', hop', -⟩ := (mem_rowsOf cw r').1 hr'
  exact List.inj_on_of_nodup_map opcodeMap_ops_nodup hmem' hmem (hop'.symm.trans hop)

/-- Every instruction has its row in the map. -/
theorem exists_row (i : Instr) : ∃ r ∈ opcodeMap, r.op = opcode i ∧ r.form = i.form := by
  cases i <;> simp [opcodeMap, opcode, Instr.form]

/-- Every row of the map names an instruction of its form. -/
theorem exists_instrOfOp_of_row (cw : PortWord) :
    ∀ r ∈ opcodeMap, opField cw = r.op → ∃ i, instrOfOp cw = some i ∧ i.form = r.form := by
  intro r hr hop
  unfold instrOfOp
  rw [hop]
  fin_cases hr <;> exact ⟨_, rfl, rfl⟩

/-- A word that a row selects decodes. -/
theorem exists_decode_of_row {cw : PortWord} {r : OpRow} (hr : r ∈ rowsOf cw) : ∃ i, decode cw = .ok i := by
  obtain ⟨hmem, hop, hunused⟩ := (mem_rowsOf cw r).1 hr
  obtain ⟨i, hname, hform⟩ := exists_instrOfOp_of_row cw r hmem hop
  exact ⟨i, (decode_eq_ok_iff cw i).2 ⟨hname, hform ▸ hunused⟩⟩

/-- Settles O3: a legal word is selected by the row of its instruction and by no other; a word that a row selects is
legal. -/
theorem decodeSelectsExactlyOneRow : Obligations.DecodeSelectsExactlyOneRow := by
  intro cw
  cases hdecode : decode cw with
  | ok i =>
    obtain ⟨hname, hunused⟩ := (decode_eq_ok_iff cw i).1 hdecode
    have hopcode := opField_of_instrOfOp hname
    obtain ⟨r, hmem, hop, hform⟩ := exists_row i
    have hr : r ∈ rowsOf cw := (mem_rowsOf cw r).2 ⟨hmem, hopcode.trans hop.symm, hform ▸ hunused⟩
    exact .inl ⟨i, r, rfl, rowsOf_eq_singleton hr, hop.trans hopcode.symm, hop, hform⟩
  | error e =>
    refine .inr ⟨e, rfl, List.eq_nil_iff_forall_not_mem.2 fun r hr => ?_⟩
    obtain ⟨i, hok⟩ := exists_decode_of_row hr
    simp [hok] at hdecode

/-! ### The response word (R82) -/

/-- Settles O7: the word is cut where its three parts were joined. -/
theorem responseWordHasItsFields : Obligations.ResponseWordHasItsFields := by
  intro c v
  refine ⟨BitVec.extractLsb'_append_eq_right, ?_, ?_⟩
  · rw [responseWord, BitVec.extractLsb'_append_eq_of_le (by decide)]
    exact BitVec.extractLsb'_append_eq_right
  · rw [responseWord, BitVec.extractLsb'_append_eq_of_le (by decide)]
    exact BitVec.extractLsb'_append_eq_left

/-! ### A command word is taken (20_memory.md R67, 40_host_access.md R110) -/

theorem step_command {s : State} {cw : PortWord} {rest : List Arrival} (h : s.pending = .command cw :: rest) :
    step s = runWord cw { s with pending := rest } := by
  simp [step, takeArrival, h, perform]

theorem runWord_illegal {cw : PortWord} {e : Illegal} (h : decode cw = .error e) (s : State) :
    runWord cw s = .next (faultOut .fIllegal s) := by
  simp [runWord, h, execIllegal]

theorem runWord_legal {cw : PortWord} {i : Instr} (h : decode cw = .ok i) (s : State) : runWord cw s = exec i s := by
  simp [runWord, h]

/-- Settles O2: `faultOut` written out for F_ILLEGAL. -/
theorem illegalWordFaults : Obligations.IllegalWordFaults := by
  intro s cw rest e hpending hdecode
  rw [step_command hpending, runWord_illegal hdecode, Laws.faultOut_eq]
  rfl

/-! ### Every command is answered once (R82, R221) -/

/-- One response word was added, and nothing that waits was taken. -/
def AnsweredOnce (s t : State) : Prop :=
  t.pending = s.pending ∧ ∃ c v, t.responses = s.responses ++ [responseWord c v]

/-- An answer counts once when all that came before it left both lists. -/
theorem answeredOnce_respond {s t : State} (hp : t.pending = s.pending) (hr : t.responses = s.responses) (c : Code) (v : Word) :
    AnsweredOnce s (respond c v t) := ⟨hp, c, v, by rw [Laws.respond_responses, hr]⟩

theorem answeredOnce_respondQuietly (c : Code) (v : Word) (s : State) : AnsweredOnce s (respondQuietly c v s) :=
  ⟨rfl, c, v, rfl⟩

theorem answeredOnce_faultOut (c : Code) (s : State) : AnsweredOnce s (faultOut c s) := ⟨rfl, c, 0, rfl⟩

theorem answeredOnce_failSolve (c : Code) (s : State) : AnsweredOnce s (failSolve c s) := ⟨rfl, c, 0, rfl⟩

theorem answeredOnce_commit (c : Code) (v : Word) (fine : Vector Word 256) (out : SolverOut) (s : State) :
    AnsweredOnce s (respond c v (s.commit fine out)) := answeredOnce_respond rfl rfl c v

theorem answeredOnce_rdOp (p : Params) (a : RegAddr) (s : State) : AnsweredOnce s (rdOp p a s) := by
  rcases Laws.rdOp_cases p a s with ⟨_, hfault⟩ | ⟨_, _, hread⟩
  · exact hfault ▸ answeredOnce_faultOut _ s
  · exact hread ▸ answeredOnce_respondQuietly _ _ s

theorem answeredOnce_wrOp (a : RegAddr) (d : Word) (s : State) : AnsweredOnce s (wrOp a d s) := by
  rcases Laws.wrOp_cases a d s with ⟨_, hfault⟩ | ⟨_, _, _, _, hfault⟩ | ⟨_, _, _, _, hwrite⟩
  · exact hfault ▸ answeredOnce_faultOut _ s
  · exact hfault ▸ answeredOnce_faultOut _ s
  · exact hwrite ▸ answeredOnce_respond (Laws.writeReg_pending _ _ s) (Laws.writeReg_responses _ _ s) _ _

theorem answeredOnce_cspushOp (b : Byte) (s : State) : AnsweredOnce s (cspushOp b s) := by
  rcases Laws.cspushOp_cases b s with ⟨_, hfault⟩ | ⟨_, habsorb⟩
  · exact hfault ▸ answeredOnce_faultOut _ s
  · exact habsorb ▸ answeredOnce_respond rfl rfl _ _

theorem answeredOnce_fencOp (p : Params) (s : State) : AnsweredOnce s (fencOp p s) :=
  answeredOnce_respond (by simp) (by simp) _ _

theorem answeredOnce_rxdataOp (p : Params) (b : Byte) (s : State) : AnsweredOnce s (rxdataOp p b s) := by
  rcases Laws.rxdataOp_cases p b s with ⟨_, hfault⟩ | ⟨_, happend⟩
  · exact hfault ▸ answeredOnce_faultOut _ s
  · exact happend ▸ answeredOnce_respond rfl rfl _ _

theorem answeredOnce_fdecOp (p : Params) (s : State) : AnsweredOnce s (fdecOp p s) := by
  rcases Laws.fdecOp_cases p s with ⟨_, hdeliver⟩ | ⟨_, _, htimeout⟩ | ⟨_, _, hwait⟩
  · exact hdeliver ▸ answeredOnce_respond rfl rfl _ _
  · exact htimeout ▸ answeredOnce_respond rfl rfl _ _
  · exact hwait ▸ answeredOnce_respond rfl rfl _ _

theorem answeredOnce_solveOp (p : Params) (s : State) : AnsweredOnce s (solveOp p s) := by
  rcases Laws.solveOp_cases p s with ⟨_, hfail⟩ | ⟨_, _, hfail⟩ | ⟨_, _, _, _, hfail⟩ | ⟨_, _, _, hcommit⟩
  · exact hfail ▸ answeredOnce_failSolve _ s
  · exact hfail ▸ answeredOnce_failSolve _ s
  · exact hfail ▸ answeredOnce_failSolve _ s
  · exact hcommit ▸ answeredOnce_commit _ _ _ _ s

theorem answeredOnce_refineOp (p : Params) (s : State) : AnsweredOnce s (refineOp p s) := by
  rcases Laws.refineOp_cases p s with ⟨_, hfail⟩ | ⟨_, _, hfail⟩ | ⟨_, _, _, _, hfail⟩ | ⟨_, _, _, hcommit⟩
  · exact hfail ▸ answeredOnce_failSolve _ s
  · exact hfail ▸ answeredOnce_failSolve _ s
  · exact hfail ▸ answeredOnce_failSolve _ s
  · exact hcommit ▸ answeredOnce_commit _ _ _ _ s

/-- Every instruction, in every state, answers a next state with one response word more. -/
theorem exec_answeredOnce (i : Instr) (s : State) : ∃ t, exec i s = .next t ∧ AnsweredOnce s t := by
  cases i with
  | nop => exact ⟨_, Laws.exec_nop s, answeredOnce_respondQuietly _ _ s⟩
  | rd a => exact ⟨_, Laws.exec_rd a s, answeredOnce_rdOp _ a s⟩
  | wr a d => exact ⟨_, Laws.exec_wr a d s, answeredOnce_wrOp a d s⟩
  | csclr => exact ⟨_, Laws.exec_csclr s, answeredOnce_respond rfl rfl _ _⟩
  | cspush b => exact ⟨_, Laws.exec_cspush b s, answeredOnce_cspushOp b s⟩
  | csrd8 => exact ⟨_, Laws.exec_csrd8 s, answeredOnce_respond rfl rfl _ _⟩
  | csrd16 => exact ⟨_, Laws.exec_csrd16 s, answeredOnce_respond rfl rfl _ _⟩
  | fenc => exact ⟨_, Laws.exec_fenc s, answeredOnce_fencOp _ s⟩
  | rxdata b => exact ⟨_, Laws.exec_rxdata b s, answeredOnce_rxdataOp _ b s⟩
  | rxidle => exact ⟨_, Laws.exec_rxidle s, answeredOnce_respond rfl rfl _ _⟩
  | fdec => exact ⟨_, Laws.exec_fdec s, answeredOnce_fdecOp _ s⟩
  | rxflush => exact ⟨_, Laws.exec_rxflush s, answeredOnce_respond rfl rfl _ _⟩
  | solve => exact ⟨_, Laws.exec_solve s, answeredOnce_solveOp _ s⟩
  | refine => exact ⟨_, Laws.exec_refine s, answeredOnce_refineOp _ s⟩
  | reset =>
    exact ⟨_, Laws.exec_reset s, answeredOnce_respond (Laws.resetBlock_pending s) (Laws.resetBlock_responses s) _ _⟩

/-- Every command word, legal or not, is answered once. -/
theorem runWord_answeredOnce (cw : PortWord) (s : State) : ∃ t, runWord cw s = .next t ∧ AnsweredOnce s t := by
  cases hdecode : decode cw with
  | error e => exact ⟨_, runWord_illegal hdecode s, answeredOnce_faultOut _ s⟩
  | ok i => exact runWord_legal hdecode s ▸ exec_answeredOnce i s

theorem mem_allCodes (c : Code) : c ∈ allCodes := by cases c <;> decide

/-- Settles O9: the step runs the word on the state with that word taken, and the type of codes has the twelve only. -/
theorem everyCommandIsAnsweredOnce : Obligations.EveryCommandIsAnsweredOnce := by
  intro s cw rest hpending
  obtain ⟨t, hrun, hwaits, c, v, hanswer⟩ := runWord_answeredOnce cw { s with pending := rest }
  exact ⟨t, c, v, (step_command hpending).trans hrun, hwaits, hanswer, mem_allCodes c⟩

end Sys2Proof.Proofs.Encoding
end

section
/-! PROOF. The host access commands of 40_host_access.md: the step that runs the decoded command (R110), NOP (R111), RD
with the contents of every register (R112), WR of a legal value and WR that may not write (R113), and RESET (R114). -/

namespace Sys2Proof.Proofs.HostAccess

open Sys2Proof Sys2Proof.Machine

/-! ### Running the next command word (R110, R67) -/

/-- Settles O1: the word is taken and then run as what it decodes to. -/
theorem stepRunsDecodedInstruction : Obligations.StepRunsDecodedInstruction := by
  intro s cw rest i hpending hdecode
  rw [Encoding.step_command hpending, Encoding.runWord_legal hdecode]

/-! ### The answers OK and F_ADDR (30_encoding.md R82, 60_exceptions.md R221) -/

theorem responseWord_ok_zero : responseWord .ok 0 = 0x0000000000000000 := by
  simp [responseWord, Code.bits]

theorem responseWord_fAddr : responseWord .fAddr 0 = 0x0000000000000081 := by
  simp [responseWord, Code.bits]

/-- All that the fault F_ADDR does (60_exceptions.md R223). -/
theorem faultOut_fAddr_eq (s : State) : faultOut .fAddr s = { s with
    fault := s.fault ||| 0b00010
    status := { s.status with lastCode := 0x81 }
    responses := s.responses ++ [0x0000000000000081] } := by
  simp only [Laws.faultOut_eq, responseWord_fAddr, Code.faultBit, Code.bits]

/-! ### NOP (R111) -/

/-- No other operation has the `op` of NOP (30_encoding.md R83). -/
theorem eq_nop_of_opcode {i : Instr} (h : opcode i = 0x00) : i = .nop := by
  cases i with
  | nop => rfl
  | _ => simp [opcode] at h

/-- Settles O12: a word with `op` 0 that decoded would be the word of NOP, which is zero. -/
theorem nopOnlyAnswers : Obligations.NopOnlyAnswers := by
  refine ⟨rfl, fun s => ?answer, Encoding.decodeEncodeRoundTrip .nop, fun cw hop hne => ?illegal⟩
  case answer => rw [Laws.exec_nop, nopOp, Laws.respondQuietly_eq, responseWord_ok_zero]
  case illegal =>
    cases hdecode : decode cw with
    | error e => exact ⟨e, rfl⟩
    | ok i =>
      have hword : encode i = cw := Encoding.encodeDecodeRoundTrip cw i hdecode
      have hopcode : opcode i = 0x00 := by rw [← Encoding.opField_encode, hword, hop]
      obtain rfl := eq_nop_of_opcode hopcode
      exact absurd hword.symm hne

/-! ### RD (R112) -/

/-- The register found at a register's address is that register (10_state.md R49). -/
theorem eq_of_regAt_regAddr {r r' : Reg} (h : regAt (regAddr r) = some r') : r = r' :=
  Option.some.inj ((RegisterMap.regAt_regAddr r).symm.trans h)

/-- RD of a register's address answers that register. -/
theorem rdOp_regAddr (p : Params) (r : Reg) (s : State) :
    rdOp p (regAddr r) s = respondQuietly .ok (readReg p s r) s := by
  rcases Laws.rdOp_cases p (regAddr r) s with ⟨hunmapped, -⟩ | ⟨r', hmapped, hread⟩
  · exact absurd (hunmapped.symm.trans (RegisterMap.regAt_regAddr r)) (by simp)
  · obtain rfl := eq_of_regAt_regAddr hmapped
    exact hread

/-- RD of an address that no register has is the fault F_ADDR. -/
theorem rdOp_unmapped {a : RegAddr} (h : ∀ r, a ≠ regAddr r) (p : Params) (s : State) :
    rdOp p a s = faultOut .fAddr s := by
  rcases Laws.rdOp_cases p a s with ⟨-, hfault⟩ | ⟨r, hmapped, -⟩
  · exact hfault
  · exact absurd (RegisterMap.eq_regAddr_of_regAt hmapped) (h r)

/-- RXBUF_LEN has 16 bits, and a buffer within its capacity is no longer than they hold (R29, R25). -/
theorem toNat_readReg_rxbufLen {p : Params} {s : State} (h : s.rx.buf.length ≤ p.rxbufCap) :
    (readReg p s .rxbufLen).toNat = s.rx.buf.length := by
  have hcap := p.rxbufCap_le
  rw [readReg, BitVec.toNat_setWidth_of_le (by decide), BitVec.toNat_ofNat, Nat.mod_eq_of_lt (by omega)]

/-- A CFG register reads its parameter, which fits it (R25, 00_scope.md R9). -/
theorem toNat_readReg_cfg (p : Params) (s : State) :
    (readReg p s .cfgStart).toNat = p.start.toNat ∧ (readReg p s .cfgEsc).toNat = p.esc.toNat ∧
      (readReg p s .cfgMask).toNat = p.mask.toNat ∧ (readReg p s .cfgFs).toNat = p.fs ∧
      (readReg p s .cfgSs).toNat = p.ss ∧ (readReg p s .cfgH).toNat = p.h ∧
      (readReg p s .cfgCinv).toNat = p.cInv ∧ (readReg p s .cfgRxcap).toNat = p.rxbufCap := by
  have hfs := p.fs_le
  have hss := p.ss_le
  have hh := p.h_le
  have hcInv := p.cInv_le
  have hcap := p.rxbufCap_le
  refine ⟨?start, ?esc, ?mask, ?fs, ?ss, ?h, ?cInv, ?rxbufCap⟩
  case start | esc | mask => exact BitVec.toNat_setWidth_of_le (by decide)
  case fs | ss | h | cInv | rxbufCap => exact Nat.mod_eq_of_lt (by omega)

/-- Settles O13: a mapped address holds its register, and a register reads a field of its own; a narrow one by
`BitVec.toNat_setWidth_of_le`. -/
theorem rdAnswersTheRegister : Obligations.RdAnswersTheRegister := by
  refine ⟨rfl, fun r s => ?mapped, fun a s hunmapped => ?unmapped, fun p s => ?contents⟩
  case mapped => rw [Laws.exec_rd, rdOp_regAddr, Laws.respondQuietly_eq]
  case unmapped => rw [Laws.exec_rd, rdOp_unmapped hunmapped, faultOut_fAddr_eq]
  case contents =>
    refine ⟨⟨rfl, ?_⟩, toNat_readReg_cfg p s, ⟨rfl, rfl, ?_⟩, ⟨?_, ?_, ?_, ?_, fun k => ?_, fun k => ?_⟩,
      ⟨?_, ?_, ?_, ?_, ?_, ?_, ?_, toNat_readReg_rxbufLen, fun k => ?_⟩,
      ⟨rfl, rfl, rfl, rfl, rfl, rfl, ?_, fun _ => rfl, fun _ => rfl, fun _ => ⟨rfl, rfl, rfl, rfl⟩⟩,
      ⟨?_, rfl, rfl, rfl, rfl, fun _ => rfl, fun _ => rfl⟩⟩
    all_goals exact BitVec.toNat_setWidth_of_le (by decide)

/-! ### WR (R113) -/

/-- Settles O15: the address holds a read-only register or none, so the first check of WR faults. -/
theorem wrToReadOnlyOrUnmappedFaults : Obligations.WrToReadOnlyOrUnmappedFaults := by
  intro a d s hro
  have hfault : wrOp a d s = faultOut .fAddr s := by
    rcases Laws.wrOp_cases a d s with ⟨-, hfault⟩ | ⟨r, hmapped, hrw, -⟩ | ⟨r, hmapped, hrw, -⟩
    · exact hfault
    all_goals
      have haccess := hro r (RegisterMap.eq_regAddr_of_regAt hmapped)
      exact absurd (hrw.symm.trans haccess) (by decide)
  rw [Laws.exec_wr, hfault, faultOut_fAddr_eq]

/-- WR to a writable register of a value in its range writes the register and answers. -/
theorem wrOp_regAddr_of_legal {r : Reg} {d : Word} (s : State) (hrw : access r = .rw)
    (hlegal : legalValue r d = true) : wrOp (regAddr r) d s = respond .ok 0 (writeReg r d s) := by
  rcases Laws.wrOp_cases (regAddr r) d s with ⟨hro, -⟩ | ⟨r', hmapped, -, hillegal, -⟩ | ⟨r', hmapped, -, -, hwrite⟩
  · exact absurd (hrw.symm.trans (hro r (RegisterMap.regAt_regAddr r))) (by decide)
  · obtain rfl := eq_of_regAt_regAddr hmapped
    exact absurd (hlegal.symm.trans hillegal) (by decide)
  · obtain rfl := eq_of_regAt_regAddr hmapped
    exact hwrite

/-- A value that fits a narrow register is read back as it was written. -/
theorem setWidth_setWidth_of_lt {w : Nat} {d : Word} (h : d.toNat < 2 ^ w) : (d.setWidth w).setWidth 32 = d := by
  apply BitVec.eq_of_toNat_eq
  rw [BitVec.toNat_setWidth, BitVec.toNat_setWidth, Nat.mod_eq_of_lt h, Nat.mod_eq_of_lt d.isLt]

/-- A register reads as what was written to it: the range of R44 keeps the data within the register's width. -/
theorem readReg_writeReg_same {r : Reg} {d : Word} (hlegal : legalValue r d = true) (p : Params) (s : State) :
    readReg p (writeReg r d s) r = d := by
  cases r with
  | txCtrl | txCmd | txLen =>
    have hfits : d.toNat ≤ 255 := of_decide_eq_true hlegal
    exact setWidth_setWidth_of_lt (w := 8) (by omega)
  | txPay k =>
    have hfits : d.toNat ≤ 255 := of_decide_eq_true hlegal
    simpa [readReg, writeReg] using setWidth_setWidth_of_lt (w := 8) (d := d) (by omega)
  | sctl =>
    have hfits : d.toNat ≤ 7 := of_decide_eq_true hlegal
    exact setWidth_setWidth_of_lt (w := 3) (by omega)
  | az | el | errlim | offX | offY | offZ => rfl
  | pvalid k | corr k | posX k | posY k | posZ k | fine k => exact Vector.getElem_set_self _
  | _ => exact absurd hlegal Bool.false_ne_true

/-- A WR leaves the contents of every other register: a scalar has a field of its own, and an entry of a table an index
of its own. -/
theorem readReg_writeReg_of_ne {r r' : Reg} (hne : r ≠ r') (d : Word) (p : Params) (s : State) :
    readReg p (writeReg r d s) r' = readReg p s r' := by
  cases r' with
  | txCtrl | txCmd | txLen | txrawLen | txraw _ | az | el | offX | offY | offZ | errlim | sctl =>
    cases r <;> first | rfl | contradiction
  | txPay k | pvalid k | corr k | posX k | posY k | posZ k | fine k =>
    cases r with
    | txPay j | pvalid j | corr j | posX j | posY j | posZ j | fine j => simp_all [readReg, writeReg, Fin.val_inj]
    | _ => rfl
  | _ => simp [readReg]

/-- An answer changes what STATUS reads and nothing else of the register space. -/
theorem readReg_respond {r : Reg} (hne : r ≠ .status) (c : Code) (v : Word) (p : Params) (s : State) :
    readReg p (respond c v s) r = readReg p s r := by
  cases r with
  | status => exact absurd rfl hne
  | _ => rfl

/-- Settles O14: the answer writes LASTCODE and its own word, and all else is `writeReg` on the register itself and on
the others. -/
theorem wrStoresALegalValue : Obligations.WrStoresALegalValue := by
  intro r d s hrw hlegal
  have hr : r ≠ .status := by
    rintro rfl
    exact absurd hrw (by decide)
  refine ⟨respond .ok 0 (writeReg r d s), ?next, ?same, fun r' hne hr' => ?others, ?buf, ?status, ?answer, ?pending⟩
  case next => rw [Laws.exec_wr, wrOp_regAddr_of_legal s hrw hlegal]
  case same => rw [readReg_respond hr, readReg_writeReg_same hlegal]
  case others => rw [readReg_respond hr', readReg_writeReg_of_ne hne.symm]
  case buf => rw [Laws.respond_rx, Laws.writeReg_rx]
  case status => simp only [Laws.respond_eq, Laws.writeReg_status, Code.bits]
  case answer => rw [Laws.respond_responses, Laws.writeReg_responses, responseWord_ok_zero]
  case pending => rw [Laws.respond_pending, Laws.writeReg_pending]

/-! ### RESET (R114) -/

/-- Settles O20: the reset state has LASTCODE 0 already, so the answer adds only its word. -/
theorem resetCommandResets : Obligations.ResetCommandResets := by
  refine ⟨rfl, fun s => ?_⟩
  rw [Laws.exec_reset, resetOp, Laws.respond_eq, responseWord_ok_zero]
  rfl

end Sys2Proof.Proofs.HostAccess
end

section
/-! PROOF. The obligations of 41_checksum.md: the two checksum functions (R120 to R123), the commands CSCLR, CSPUSH,
CSRD8 and CSRD16 (R125 to R128), and a sequence pushed by the machine's own steps. -/

namespace Sys2Proof.Proofs.Checksum

open Sys2Proof Sys2Proof.Machine

/-! ### The byte sum and `csum8` (R120, R121) -/

theorem byteSum_eq_sum_map (bs : List Byte) : byteSum bs = (bs.map BitVec.toNat).sum := by
  induction bs with
  | nil => rfl
  | cons b bs ih => rw [byteSum, ih, List.map_cons, List.sum_cons]

theorem byteSum_append_singleton (bs : List Byte) (b : Byte) : byteSum (bs ++ [b]) = byteSum bs + b.toNat := by
  simp [byteSum_eq_sum_map]

theorem byteSum_le (bs : List Byte) : byteSum bs ≤ 255 * bs.length := by
  induction bs with
  | nil => exact Nat.zero_le _
  | cons b bs ih =>
    have hb := b.isLt
    rw [byteSum, List.length_cons]
    omega

/-- Either branch of R120 gives 8 bits. -/
theorem finish8_lt (n : Nat) : finish8 n < 2 ^ 8 := by
  unfold finish8
  split <;> omega

theorem toNat_csum8 (bs : List Byte) : (csum8 bs).toNat = finish8 (byteSum bs) := by
  rw [csum8, BitVec.toNat_ofNat, Nat.mod_eq_of_lt (finish8_lt _)]

/-- Settles O22: the two branches of `finish8` on the byte sum. -/
theorem csum8FoldsOrComplements : Obligations.Csum8FoldsOrComplements := by
  intro bs
  rw [← byteSum_eq_sum_map, toNat_csum8]
  exact ⟨fun hle => if_neg (Nat.not_lt.2 hle), fun hgt => if_pos hgt⟩

/-! ### The word sum by place (R122) -/

/-- Settles O23, two bytes at a time: they stand at places 0 and 1, and the parity of all later places is kept. -/
theorem wordSumByPlace : Obligations.WordSumByPlace := by
  intro bs
  induction bs using wsum16.induct with
  | case1 => rfl
  | case2 b => simp [wsum16]
  | case3 b b' bs ih =>
    have hparity : ∀ j, (j + 1 + 1) % 2 = j % 2 := fun j => Nat.add_mod_right j 2
    rw [wsum16, ih, List.length_cons, List.length_cons, Finset.sum_range_succ', Finset.sum_range_succ']
    simp only [hparity, List.getD_cons_succ, List.getD_cons_zero, Nat.zero_add, Nat.reduceMod, one_ne_zero, if_true,
      if_false]
    omega

/-- A byte more counts once or 256 times by the parity of the number of bytes before it: what lets the word sum "be
accumulated one byte at a time" (R122). -/
theorem wsum16_append_singleton (bs : List Byte) (b : Byte) :
    wsum16 (bs ++ [b]) = wsum16 bs + (if bs.length % 2 = 0 then 1 else 256) * b.toNat := by
  rw [wordSumByPlace (bs ++ [b]), wordSumByPlace bs, List.length_append, List.length_singleton, Finset.sum_range_succ,
    List.getD_append_right _ _ _ _ le_rfl, Nat.sub_self, List.getD_cons_zero]
  congr 1
  refine Finset.sum_congr rfl fun j hj => ?_
  rw [List.getD_append _ _ _ _ (Finset.mem_range.1 hj)]

theorem wsum16_le (bs : List Byte) : wsum16 bs ≤ 65280 * bs.length := by
  induction bs using List.reverseRecOn with
  | nil => exact Nat.zero_le _
  | append_singleton bs b ih =>
    have hb := b.isLt
    rw [wsum16_append_singleton, List.length_append, List.length_singleton]
    split <;> omega

/-! ### The end-around carry and `csum16` (R123) -/

theorem foldOnce_lt {n : Nat} (h : 0xFFFF < n) : foldOnce n < n := by
  unfold foldOnce
  omega

/-- A carry out of 16 bits is worth 65536, which is 1 modulo 65535. -/
theorem foldOnce_mod (n : Nat) : foldOnce n % 65535 = n % 65535 := by
  unfold foldOnce
  omega

theorem foldOnce_eq_zero_iff (n : Nat) : foldOnce n = 0 ↔ n = 0 := by
  unfold foldOnce
  omega

/-- Induction along the loop of R123: each turn makes the sum smaller. -/
theorem foldInduction {P : Nat → Prop} (done : ∀ n ≤ 0xFFFF, P n)
    (turn : ∀ n, 0xFFFF < n → P (foldOnce n) → P n) (n : Nat) : P n := by
  induction n using Nat.strong_induction_on with
  | h n ih =>
    rcases Nat.lt_or_ge 0xFFFF n with hgt | hle
    · exact turn n hgt (ih _ (foldOnce_lt hgt))
    · exact done n hle

theorem foldLoop_of_le {n : Nat} (h : n ≤ 0xFFFF) (turns : Nat) : foldLoop turns n = n := by
  cases turns with
  | zero => rfl
  | succ turns => exact if_neg (Nat.not_lt.2 h)

theorem foldLoop_succ_of_gt {n : Nat} (h : 0xFFFF < n) (turns : Nat) :
    foldLoop (turns + 1) n = foldLoop turns (foldOnce n) := if_pos h

/-- Once there are as many turns as the sum, how many there are does not matter: the bound of `foldLoop` cuts no run of
the loop short. -/
theorem foldLoop_eq_fold16 (n : Nat) : ∀ turns, n ≤ turns → foldLoop turns n = fold16 n := by
  induction n using foldInduction with
  | done n hle => exact fun turns _ => by rw [fold16, foldLoop_of_le hle, foldLoop_of_le hle]
  | turn n hgt ih =>
    have hless := foldOnce_lt hgt
    have hturn : ∀ turns, n ≤ turns → foldLoop turns n = fold16 (foldOnce n) := by
      intro turns hturns
      obtain ⟨k, rfl⟩ : ∃ k, turns = k + 1 := Nat.exists_eq_add_one.2 (by omega)
      rw [foldLoop_succ_of_gt hgt, ih k (by omega)]
    intro turns hturns
    exact (hturn turns hturns).trans (hturn n le_rfl).symm

theorem fold16_of_le {n : Nat} (h : n ≤ 0xFFFF) : fold16 n = n := foldLoop_of_le h n

theorem fold16_of_gt {n : Nat} (h : 0xFFFF < n) : fold16 n = fold16 (foldOnce n) := by
  have hless := foldOnce_lt h
  obtain ⟨k, rfl⟩ : ∃ k, n = k + 1 := Nat.exists_eq_add_one.2 (by omega)
  exact (foldLoop_succ_of_gt h k).trans (foldLoop_eq_fold16 _ k (by omega))

theorem fold16_le (n : Nat) : fold16 n ≤ 0xFFFF := by
  induction n using foldInduction with
  | done n hle => rwa [fold16_of_le hle]
  | turn n hgt ih => rwa [fold16_of_gt hgt]

theorem fold16_mod (n : Nat) : fold16 n % 65535 = n % 65535 := by
  induction n using foldInduction with
  | done n hle => rw [fold16_of_le hle]
  | turn n hgt ih => rw [fold16_of_gt hgt, ih, foldOnce_mod]

theorem fold16_eq_zero_iff (n : Nat) : fold16 n = 0 ↔ n = 0 := by
  induction n using foldInduction with
  | done n hle => rw [fold16_of_le hle]
  | turn n hgt ih => rw [fold16_of_gt hgt, ih, foldOnce_eq_zero_iff]

theorem finish16_lt (n : Nat) : finish16 n < 2 ^ 16 := by
  unfold finish16
  omega

theorem toNat_csum16 (bs : List Byte) : (csum16 bs).toNat = finish16 (wsum16 bs) := by
  rw [csum16, BitVec.toNat_ofNat, Nat.mod_eq_of_lt (finish16_lt _)]

/-- The word sum of 255 bytes has less than 255 carries, so the first fold leaves less than 2·65536 (R123). -/
theorem foldOnce_foldOnce_wsum16_le {bs : List Byte} (h : bs.length ≤ 255) :
    foldOnce (foldOnce (wsum16 bs)) ≤ 0xFFFF := by
  have hsum := wsum16_le bs
  unfold foldOnce
  omega

theorem toNat_lowByte (c : BitVec 16) : (lowByte c).toNat = c.toNat % 256 := by
  simp [lowByte, BitVec.extractLsb'_toNat]

theorem toNat_highByte (c : BitVec 16) : (highByte c).toNat = c.toNat / 256 := by
  have hc := c.isLt
  rw [highByte, BitVec.extractLsb'_toNat, Nat.shiftRight_eq_div_pow]
  omega

/-- A long frame ends with its checksum, the low byte first (R123, 42_frame_codec.md R141). -/
theorem image_of_ne_nil (p : Params) (ctrl cmd : Byte) {pay : List Byte} (h : pay ≠ []) :
    image p ctrl cmd pay = (header p ctrl cmd pay ++ pay) ++ [lowByte (csum16 pay), highByte (csum16 pay)] := if_neg h

/-- Settles O24: the equations of the loop, and the two bytes of the checksum at the end of a long frame. -/
theorem csum16FoldsEveryCarry : Obligations.Csum16FoldsEveryCarry :=
  ⟨fun _ => fold16_of_le, fun _ => fold16_of_gt, fun bs => ⟨fold16_le _, toNat_csum16 bs⟩,
    fun _ => foldOnce_foldOnce_wsum16_le,
    fun p ctrl cmd _ hpay => ⟨_, _, _, image_of_ne_nil p ctrl cmd hpay, toNat_lowByte _, toNat_highByte _⟩⟩

/-! ### The answers OK and F_CSOVF (40_host_access.md R110, 60_exceptions.md R221) -/

/-- All that the answer `(OK, v)` does (R110). -/
theorem respond_ok_eq (v : Word) (s : State) : respond .ok v s = { s with
    status := { s.status with lastCode := 0x00 }
    responses := s.responses ++ [responseWord .ok v] } := rfl

/-- All that the fault F_CSOVF does (60_exceptions.md R223). -/
theorem faultOut_fCsovf_eq (s : State) : faultOut .fCsovf s = { s with
    fault := s.fault ||| 0b10000
    status := { s.status with lastCode := 0x84 }
    responses := s.responses ++ [0x0000000000000084] } := by
  have hword : responseWord .fCsovf 0 = 0x0000000000000084 := by simp [responseWord, Code.bits]
  simp only [Laws.faultOut_eq, hword, Code.faultBit, Code.bits]

/-! ### CSCLR (R125) -/

/-- Settles O25: the answer `(OK, 0)` is the word of zeros. -/
theorem csclrClears : Obligations.CsclrClears := by
  refine ⟨rfl, fun s => ?_⟩
  rw [Laws.exec_csclr, csclrOp, respond_ok_eq, HostAccess.responseWord_ok_zero]
  rfl

/-! ### CSPUSH (R126) -/

theorem cspushOp_full (b : Byte) {s : State} (h : s.csu.cnt = 65535) : cspushOp b s = faultOut .fCsovf s := by
  rcases Laws.cspushOp_cases b s with ⟨-, hfault⟩ | ⟨hroom, -⟩
  · exact hfault
  · exact absurd (congrArg BitVec.toNat h) hroom

theorem cspushOp_absorbs (b : Byte) {s : State} (h : s.csu.cnt ≠ 65535) :
    cspushOp b s = respond .ok ((absorb b s.csu).cnt.setWidth 32) (s.setCsu (absorb b s.csu)) := by
  rcases Laws.cspushOp_cases b s with ⟨hfull, -⟩ | ⟨-, habsorb⟩
  · exact absurd (BitVec.eq_of_toNat_eq hfull) h
  · exact habsorb

/-- The accumulators hold the two sums and the number of these bytes. -/
structure Absorbed (bs : List Byte) (c : Csu) : Prop where
  sum8 : c.sum8.toNat = byteSum bs
  sum16 : c.sum16.toNat = wsum16 bs
  cnt : c.cnt.toNat = bs.length

/-- One byte more, when fewer than 65535 were absorbed: neither sum reaches 2^32 (10_state.md R26). -/
theorem absorbed_append_singleton {bs : List Byte} {c : Csu} (h : Absorbed bs c) (hlen : bs.length < 65535) (b : Byte) :
    Absorbed (bs ++ [b]) (absorb b c) := by
  obtain ⟨hsum8, hsum16, hcnt⟩ := h
  have hb := b.isLt
  have hbytes := byteSum_le bs
  have hwords := wsum16_le bs
  have hlow : (b.setWidth 32).toNat = b.toNat := BitVec.toNat_setWidth_of_le (by decide)
  have hhigh : (256 * b.setWidth 32 : Word).toNat = 256 * b.toNat := by
    rw [BitVec.toNat_mul, hlow]
    exact Nat.mod_eq_of_lt (by simp; omega)
  refine ⟨?sum8, ?sum16, ?cnt⟩
  case sum8 =>
    rw [byteSum_append_singleton, absorb, BitVec.toNat_add, hlow, hsum8]
    omega
  case sum16 =>
    rw [wsum16_append_singleton, absorb, hcnt]
    split
    · rw [BitVec.toNat_add, hlow, hsum16]
      omega
    · rw [BitVec.toNat_add, hhigh, hsum16]
      omega
  case cnt =>
    rw [List.length_append, List.length_singleton, absorb]
    bv_omega

/-- "After CSCLR and pushes of `b0 .. bk`" the accumulators hold the sums of those bytes (R126). -/
theorem absorbed_foldl {bs : List Byte} (h : bs.length ≤ 65535) :
    Absorbed bs (bs.foldl (fun c b => absorb b c) ⟨0, 0, 0⟩) := by
  induction bs using List.reverseRecOn with
  | nil => exact ⟨rfl, rfl, rfl⟩
  | append_singleton bs b ih =>
    rw [List.length_append, List.length_singleton] at h
    rw [List.foldl_append]
    exact absorbed_append_singleton (ih (by omega)) (by omega) b

/-- Settles O26: the two cases of CSPUSH by the count, and induction on the bytes pushed. -/
theorem cspushAbsorbsOneByte : Obligations.CspushAbsorbsOneByte := by
  refine ⟨rfl, fun b s hroom => ?absorbs, fun b s hfull => ?full, fun bs hlen => ?sums⟩
  case absorbs =>
    rw [Laws.exec_cspush, cspushOp_absorbs b hroom, respond_ok_eq]
    rfl
  case full => rw [Laws.exec_cspush, cspushOp_full b hfull, faultOut_fCsovf_eq]
  case sums =>
    obtain ⟨hsum8, hsum16, hcnt⟩ := absorbed_foldl hlen
    exact ⟨hsum8, hsum16, hcnt⟩

/-! ### CSRD8 and CSRD16 (R127, R128) -/

/-- The value that CSRD8 answers is `csum8` of any bytes whose sum is in CS_SUM8. -/
theorem setWidth_csum8 {bs : List Byte} {n : Nat} (h : n = byteSum bs) :
    (csum8 bs).setWidth 32 = BitVec.ofNat 32 (finish8 n) := by
  rw [h, ← toNat_csum8, BitVec.ofNat_toNat]

/-- The value that CSRD16 answers is `csum16` of any bytes whose word sum is in CS_SUM16. -/
theorem setWidth_csum16 {bs : List Byte} {n : Nat} (h : n = wsum16 bs) :
    (csum16 bs).setWidth 32 = BitVec.ofNat 32 (finish16 n) := by
  rw [h, ← toNat_csum16, BitVec.ofNat_toNat]

/-- Settles O27: `finish8` is the formula of R127 and the last step of `csum8`. -/
theorem csrd8AnswersTheSum : Obligations.Csrd8AnswersTheSum := by
  refine ⟨rfl, fun s => ?formula, fun s bs hsum => ?csum8⟩
  case formula => rw [Laws.exec_csrd8, csrd8Op, respond_ok_eq, finish8]
  case csum8 =>
    rw [← byteSum_eq_sum_map] at hsum
    rw [Laws.exec_csrd8, csrd8Op, respond_ok_eq, setWidth_csum8 hsum]

/-- Settles O28: the answer is the complement of the folded sum, which keeps its residue modulo 65535 and is 0 for 0
only. -/
theorem csrd16AnswersTheFoldedSum : Obligations.Csrd16AnswersTheFoldedSum := by
  refine ⟨rfl, fun n => ?loop, fun s => ⟨finish16 s.csu.sum16.toNat, rfl, ?bound, ?residue, ?zero, ?answer⟩,
    fun s bs hsum => ?csum16⟩
  case loop =>
    split
    next hgt => exact fold16_of_gt hgt
    next hle => exact fold16_of_le (Nat.not_lt.1 hle)
  case bound => exact Nat.le_of_lt_succ (finish16_lt _)
  case residue => rw [finish16, Nat.sub_sub_self (fold16_le _), fold16_mod]
  case zero =>
    have hle := fold16_le s.csu.sum16.toNat
    calc finish16 s.csu.sum16.toNat = 65535 ↔ fold16 s.csu.sum16.toNat = 0 := by unfold finish16; omega
      _ ↔ s.csu.sum16.toNat = 0 := fold16_eq_zero_iff _
      _ ↔ s.csu.sum16 = 0 := (BitVec.toNat_inj (y := 0))
  case answer => rw [Laws.exec_csrd16, csrd16Op, respond_ok_eq]
  case csum16 => rw [Laws.exec_csrd16, csrd16Op, respond_ok_eq, setWidth_csum16 hsum]

/-! ### A sequence pushed by the machine's own steps (R126 to R128, 00_scope.md R15) -/

/-- A waiting CSPUSH word is taken and its byte absorbed, when fewer than 65535 were. -/
theorem step_cspush {s : State} {b : Byte} {rest : List Arrival}
    (hpending : s.pending = .command (encode (.cspush b)) :: rest) (hroom : s.csu.cnt ≠ 65535) :
    ∃ t, step s = .next t ∧ t.pending = rest ∧ t.csu = absorb b s.csu := by
  have hstep := HostAccess.stepRunsDecodedInstruction s _ rest _ hpending (Encoding.decodeEncodeRoundTrip (.cspush b))
  rw [Laws.exec_cspush, cspushOp_absorbs b (s := { s with pending := rest }) hroom] at hstep
  exact ⟨_, hstep, rfl, rfl⟩

theorem run_succ_of_step {n : Nat} {s t : State} (h : step s = .next t) :
    Host.Core.run Sys2Proof.core (n + 1) s = Host.Core.run Sys2Proof.core n t := by
  have hcore : Sys2Proof.core.step s = .next t := h
  simp only [Host.Core.run, hcore]

/-- As many steps as there are CSPUSH words waiting take them all, when the count has room for them. -/
theorem run_cspush (bs : List Byte) : ∀ s : State, s.csu.cnt.toNat + bs.length ≤ 65535 →
    s.pending = bs.map (fun b => Arrival.command (encode (.cspush b))) →
    ∃ t : State, Host.Core.run Sys2Proof.core bs.length s = .next t ∧ t.pending = [] ∧
      t.csu = bs.foldl (fun c b => absorb b c) s.csu := by
  induction bs with
  | nil => exact fun s _ hpending => ⟨s, rfl, hpending, rfl⟩
  | cons b bs ih =>
    intro s hroom hpending
    rw [List.length_cons] at hroom
    obtain ⟨t, hstep, hwaits, hcsu⟩ := step_cspush hpending (by bv_omega)
    have hcount : t.csu.cnt.toNat = s.csu.cnt.toNat + 1 := by
      rw [hcsu, absorb]
      bv_omega
    obtain ⟨u, hrun, hdone, hsums⟩ := ih t (by omega) hwaits
    exact ⟨u, (run_succ_of_step hstep).trans hrun, hdone, by rw [hsums, hcsu, List.foldl_cons]⟩

/-- Settles O29: the run leaves the sums of the bytes, and the two commands read them. -/
theorem pushedBytesAreChecksummed : Obligations.PushedBytesAreChecksummed := by
  intro s bs hlen hclear hpending
  obtain ⟨t, hrun, hdone, hcsu⟩ := run_cspush bs s (by simpa [hclear] using hlen) hpending
  obtain ⟨hsum8, hsum16, -⟩ : Absorbed bs t.csu := by
    rw [hcsu, hclear]
    exact absorbed_foldl hlen
  refine ⟨t, _, _, hrun, hdone, Laws.exec_csrd8 t, ?csum8, Laws.exec_csrd16 t, ?csum16⟩
  case csum8 => rw [csrd8Op, Laws.respond_responses, setWidth_csum8 hsum8]
  case csum16 => rw [csrd16Op, Laws.respond_responses, setWidth_csum16 hsum16]

end Sys2Proof.Proofs.Checksum
end

section
/-! PROOF. The obligations of 42_frame_codec.md: the image of a frame and its escaping (R141 to R144), the receive
buffer (R145, R146, R154), the scan read as pieces (R148, R149, R157), and what FDEC makes of it (R150 to R158). -/

namespace Sys2Proof.Proofs.FrameCodec

open Sys2Proof Sys2Proof.Machine

/-! ### The image of a frame (R141) -/

/-- What follows the header: nothing, or the payload and its checksum, low byte first. -/
def body (pay : List Byte) : List Byte :=
  if pay = [] then [] else pay ++ [lowByte (csum16 pay), highByte (csum16 pay)]

theorem body_of_ne_nil {pay : List Byte} (h : pay ≠ []) :
    body pay = pay ++ [lowByte (csum16 pay), highByte (csum16 pay)] := if_neg h

theorem image_eq_header_append (p : Params) (ctrl cmd : Byte) (pay : List Byte) :
    image p ctrl cmd pay = header p ctrl cmd pay ++ body pay := by
  unfold image body
  split
  · rw [List.append_nil]
  · rw [List.append_assoc]

theorem take_image (p : Params) (ctrl cmd : Byte) (pay : List Byte) :
    (image p ctrl cmd pay).take 5 = header p ctrl cmd pay := by
  rw [image_eq_header_append]
  rfl

theorem drop_image (p : Params) (ctrl cmd : Byte) (pay : List Byte) : (image p ctrl cmd pay).drop 5 = body pay := by
  rw [image_eq_header_append]
  rfl

theorem getD_image (p : Params) (ctrl cmd : Byte) (pay : List Byte) (k : Nat) :
    (image p ctrl cmd pay).getD (k + 5) 0 = (body pay).getD k 0 := by
  rw [image_eq_header_append]
  rfl

theorem take_body (pay : List Byte) : (body pay).take pay.length = pay := by
  unfold body
  split
  case isTrue hnil =>
    rw [hnil]
    rfl
  case isFalse => exact List.take_left

theorem length_le_length_body (pay : List Byte) : pay.length ≤ (body pay).length := by
  have htake := congrArg List.length (take_body pay)
  rw [List.length_take] at htake
  omega

theorem getD_body_low {pay : List Byte} (h : pay ≠ []) : (body pay).getD pay.length 0 = lowByte (csum16 pay) := by
  rw [body_of_ne_nil h, List.getD_append_right _ _ _ _ le_rfl, Nat.sub_self]
  rfl

theorem getD_body_high {pay : List Byte} (h : pay ≠ []) :
    (body pay).getD (pay.length + 1) 0 = highByte (csum16 pay) := by
  rw [body_of_ne_nil h, List.getD_append_right _ _ _ _ (by omega), Nat.add_sub_cancel_left]
  rfl

theorem length_image_of_ne_nil (p : Params) (ctrl cmd : Byte) {pay : List Byte} (h : pay ≠ []) :
    (image p ctrl cmd pay).length = 7 + pay.length := by
  rw [image_eq_header_append, body_of_ne_nil h]
  simp [header]
  omega

/-- Settles O30: the image is the header and the body. -/
theorem imageHasTheFrameLayout : Obligations.ImageHasTheFrameLayout := by
  intro p ctrl cmd pay _
  refine ⟨take_image p ctrl cmd pay, ?short, fun hne => ⟨length_image_of_ne_nil p ctrl cmd hne, ?payload, ?low, ?high⟩⟩
  case short =>
    rintro rfl
    rfl
  case payload => rw [drop_image, take_body]
  case low => rw [Nat.add_comm, getD_image, getD_body_low hne, Checksum.toNat_lowByte]
  case high =>
    rw [show 6 + pay.length = pay.length + 1 + 5 by omega, getD_image, getD_body_high hne, Checksum.toNat_highByte]

/-! ### Escaping (R142, R143) -/

theorem length_stuffByte_eq (p : Params) (b : Byte) :
    (stuffByte p b).length = 1 + if b == p.start || b == p.esc then 1 else 0 := by
  simp only [stuffByte, Bool.or_eq_true, beq_iff_eq]
  split <;> rfl

theorem length_flatMap_stuffByte_eq (p : Params) (bs : List Byte) :
    (bs.flatMap (stuffByte p)).length = bs.length + bs.countP (fun x => x == p.start || x == p.esc) := by
  induction bs with
  | nil => rfl
  | cons b bs ih =>
    rw [List.flatMap_cons, List.length_append, ih, length_stuffByte_eq, List.countP_cons, List.length_cons]
    omega

theorem stuff_append_singleton (p : Params) {u : List Byte} (h : u ≠ []) (b : Byte) :
    stuff p (u ++ [b]) = stuff p u ++ stuffByte p b := by
  cases u with
  | nil => exact absurd rfl h
  | cons a as => simp [stuff]

theorem eq_xor_iff {a b m : Byte} : a = b ^^^ m ↔ m = a ^^^ b := by
  constructor
  · rintro rfl
    rw [BitVec.xor_comm b m, BitVec.xor_assoc, BitVec.xor_self, BitVec.xor_zero]
  · rintro rfl
    rw [BitVec.xor_comm a b, ← BitVec.xor_assoc, BitVec.xor_self, BitVec.zero_xor]

/-- An escaped byte is not START again: R9 asks that MASK is neither 0 nor START xor ESC. -/
theorem start_notMem_stuffByte (p : Params) (b : Byte) : p.start ∉ stuffByte p b := by
  have hmask : p.start ≠ p.start ^^^ p.mask := fun h => p.mask_ne_zero ((eq_xor_iff.1 h).trans BitVec.xor_self)
  have hxor : p.start ≠ p.esc ^^^ p.mask := fun h => p.mask_ne_start_xor_esc (eq_xor_iff.1 h)
  unfold stuffByte
  split
  case isTrue hesc =>
    rcases hesc with rfl | rfl
    · simp [p.start_ne_esc, hmask]
    · simp [p.start_ne_esc, hxor]
  case isFalse hplain =>
    obtain ⟨hstart, -⟩ := not_or.1 hplain
    simpa using Ne.symm hstart

/-- Settles O31: the START in front is not escaped, and no byte after it leaves a START. -/
theorem rawFrameHoldsStartOnce : Obligations.RawFrameHoldsStartOnce := by
  intro p ctrl cmd pay _
  obtain ⟨rest, himage, -⟩ := Invariant.image_eq_start_cons p ctrl cmd pay
  refine ⟨rest.flatMap (stuffByte p), by rw [himage, stuff], fun hmem => ?_⟩
  obtain ⟨b, -, hb⟩ := List.mem_flatMap.1 hmem
  exact start_notMem_stuffByte p b hb

/-! ### FENC (R144) -/

theorem stagedPayload_of_len_zero {t : Tx} (h : t.len = 0) : stagedPayload t = [] := by
  simp [stagedPayload, h]

theorem length_stagedRaw (p : Params) (t : Tx) : 5 ≤ (stagedRaw p t).length ∧ (stagedRaw p t).length ≤ 523 := by
  obtain ⟨rest, hraw, hlo, hhi⟩ := Invariant.stagedRaw_eq_start_cons p t
  rw [hraw, List.length_cons]
  omega

/-- A short frame has four bytes that may have to be escaped (30_encoding.md R91). -/
theorem length_stagedRaw_short (p : Params) {t : Tx} (h : t.len = 0) : (stagedRaw p t).length ≤ 9 := by
  rw [stagedRaw, stagedPayload_of_len_zero h]
  obtain ⟨-, hlength⟩ := Invariant.length_flatMap_stuffByte p ((image p t.ctrl t.cmd []).tail)
  exact Nat.succ_le_succ hlength

/-- All that FENC does. -/
theorem fencOp_eq (p : Params) (s : State) : fencOp p s = { s with
    tx := { s.tx with raw := rawTable (stagedRaw p s.tx), rawLen := BitVec.ofNat 10 (stagedRaw p s.tx).length }
    status := { s.status with lastCode := 0x00, txValid := true }
    responses := s.responses ++ [responseWord .ok (BitVec.ofNat 32 (stagedRaw p s.tx).length)] } := by
  simp only [fencOp, Checksum.respond_ok_eq, State.setTxValid, State.storeRaw]

/-- Settles O32: FENC stores the staged frame's raw bytes, which fit TXRAW. -/
theorem fencStoresTheRawFrame : Obligations.FencStoresTheRawFrame := by
  refine ⟨rfl, fun s => ?fenc, fun _ _ => rfl, fun p u b hne => stuff_append_singleton p hne b, fun p b bs => ?length⟩
  case length =>
    rw [stuff, List.length_cons, length_flatMap_stuffByte_eq, List.length_cons]
    omega
  case fenc =>
    obtain ⟨hlo, hhi⟩ := length_stagedRaw Config.params s.tx
    refine ⟨_, stagedRaw Config.params s.tx, rfl, hlo, hhi, length_stagedRaw_short _, Laws.exec_fenc s,
      fun k => ?raw, ?rawLen, ?frame⟩
    case frame =>
      rw [fencOp_eq]
    case raw =>
      rw [fencOp, Laws.respond_tx, Laws.setTxValid_tx, Laws.storeRaw_tx_raw, Fin.getElem_fin, Laws.rawTable_getElem]
      split
      · rfl
      · exact List.getD_eq_default _ _ (by omega)
    case rawLen =>
      rw [fencOp, Laws.respond_tx, Laws.setTxValid_tx, Laws.storeRaw_tx_rawLen, BitVec.toNat_ofNat]
      omega

/-! ### RXDATA, RXIDLE and RXFLUSH (R145, R146, R154) -/

theorem rxdataOp_appends (p : Params) (b : Byte) {s : State} (h : s.rx.buf.length ≠ p.rxbufCap) :
    rxdataOp p b s = respond .ok (BitVec.ofNat 32 (s.rx.buf.length + 1)) (s.setRxBuf (s.rx.buf ++ [b]) 0) := by
  rcases Laws.rxdataOp_cases p b s with ⟨hfull, -⟩ | ⟨-, happend⟩
  · exact absurd hfull h
  · exact happend

theorem rxdataOp_full (p : Params) (b : Byte) {s : State} (h : s.rx.buf.length = p.rxbufCap) :
    rxdataOp p b s = faultOut .fRxovf s := by
  rcases Laws.rxdataOp_cases p b s with ⟨-, hfault⟩ | ⟨hroom, -⟩
  · exact hfault
  · exact absurd h hroom

/-- All that the fault F_RXOVF does (60_exceptions.md R223). -/
theorem faultOut_fRxovf_eq (s : State) : faultOut .fRxovf s = { s with
    fault := s.fault ||| 0b01000
    status := { s.status with lastCode := 0x83 }
    responses := s.responses ++ [0x0000000000000083] } := by
  have hword : responseWord .fRxovf 0 = 0x0000000000000083 := by simp [responseWord, Code.bits]
  simp only [Laws.faultOut_eq, hword, Code.faultBit, Code.bits]

/-- Settles O33: the two cases of RXDATA, with room and on a full buffer. -/
theorem rxdataAppendsOneByte : Obligations.RxdataAppendsOneByte := by
  refine ⟨rfl, fun b s hroom => ?append, fun b s hfull => ?fault⟩
  case append =>
    rw [Laws.exec_rxdata, rxdataOp_appends _ b hroom, Checksum.respond_ok_eq]
    rfl
  case fault => rw [Laws.exec_rxdata, rxdataOp_full _ b hfull, faultOut_fRxovf_eq]

theorem setWidth_nextIdle (idle : BitVec 2) :
    (nextIdle idle).setWidth 32 = BitVec.ofNat 32 (min (idle.toNat + 1) 2) := by
  apply BitVec.eq_of_toNat_eq
  rw [nextIdle, BitVec.toNat_setWidth, BitVec.toNat_ofNat, BitVec.toNat_ofNat]
  omega

/-- Settles O34: the count stays below 4, so its two bits widen to the answer. -/
theorem rxidleCountsToTwo : Obligations.RxidleCountsToTwo := by
  refine ⟨rfl, fun s => ?_⟩
  rw [Laws.exec_rxidle, rxidleOp, setWidth_nextIdle, Checksum.respond_ok_eq]
  rfl

/-- Settles O35: RXFLUSH always answers OK. -/
theorem rxflushEmptiesTheBuffer : Obligations.RxflushEmptiesTheBuffer := by
  refine ⟨rfl, fun s => ?_⟩
  rw [Laws.exec_rxflush, rxflushOp, Checksum.respond_ok_eq]
  rfl

/-! ### The scan reads pieces (R148, R149, R157) -/

/-- A piece of raw bytes: an ESC and the byte after it (`true`), or one byte. -/
abbrev Piece := Byte × Bool

/-- The raw bytes of a piece. -/
def pieceRaw (p : Params) (c : Piece) : List Byte := if c.2 then [p.esc, c.1] else [c.1]

/-- The byte that a piece stands for. -/
def pieceByte (p : Params) (c : Piece) : Byte := if c.2 then c.1 ^^^ p.mask else c.1

/-- A piece as the scan reads it: one byte alone is not an ESC. -/
def Readable (p : Params) (c : Piece) : Prop := c.2 = false → c.1 ≠ p.esc

/-- The size that a frame of which these bytes are known is expected to have (R148). -/
def wantedSize (u : List Byte) : Nat := if u.length < 5 then 5 else totalSize (u.getD 3 0)

theorem sizeKnown_iff {u : List Byte} {total : Nat} : Laws.sizeKnown u total ↔ total = wantedSize u := by
  unfold Laws.sizeKnown wantedSize
  split
  · exact ⟨fun h => h.1 ‹_›, fun h => ⟨fun _ => h, by omega⟩⟩
  · exact ⟨fun h => h.2 (by omega), fun h => ⟨by omega, fun _ => h⟩⟩

theorem expectedSize_wantedSize (u : List Byte) (x : Byte) :
    expectedSize (u ++ [x]) (wantedSize u) = wantedSize (u ++ [x]) :=
  sizeKnown_iff.1 (Laws.sizeKnown_append x (sizeKnown_iff.2 rfl))

theorem wantedSize_le (u : List Byte) : wantedSize u ≤ 262 := by
  unfold wantedSize
  split
  · decide
  · exact Laws.totalSize_le _

/-- Bytes that are not more than a frame are, up to any earlier point, less than a frame. -/
theorem length_lt_wantedSize {u v : List Byte} (hv : v ≠ []) (h : (u ++ v).length ≤ wantedSize (u ++ v)) :
    u.length < wantedSize u := by
  have hpos := List.length_pos_of_ne_nil hv
  unfold wantedSize at *
  rw [List.length_append] at h
  split
  · omega
  · rw [if_neg (by omega), List.getD_append _ _ _ _ (by omega)] at h
    omega

/-- One turn of the scan takes one piece. -/
theorem scanLoop_piece (p : Params) {c : Piece} (hc : Readable p c) {u : List Byte} (hu : u.length < wantedSize u)
    (rest : List Byte) (j : Nat) :
    scanLoop p (pieceRaw p c ++ rest) u j (wantedSize u) =
      scanLoop p rest (u ++ [pieceByte p c]) (j + (pieceRaw p c).length) (wantedSize (u ++ [pieceByte p c])) := by
  obtain ⟨b, escaped⟩ := c
  rw [← expectedSize_wantedSize]
  cases escaped with
  | true => exact (Laws.scanLoop_turn ..).trans ((if_pos hu).trans (if_pos rfl))
  | false => exact (Laws.scanLoop_turn ..).trans ((if_pos hu).trans (if_neg (hc rfl)))

/-- The scan reads pieces as long as what it has read is not more than a frame. -/
theorem scanLoop_pieces (p : Params) (rest : List Byte) (cs : List Piece) (hcs : ∀ c ∈ cs, Readable p c) :
    ∀ (u : List Byte) (j : Nat),
      (u ++ cs.map (pieceByte p)).length ≤ wantedSize (u ++ cs.map (pieceByte p)) →
      scanLoop p (cs.flatMap (pieceRaw p) ++ rest) u j (wantedSize u) =
        scanLoop p rest (u ++ cs.map (pieceByte p)) (j + (cs.flatMap (pieceRaw p)).length)
          (wantedSize (u ++ cs.map (pieceByte p))) := by
  induction cs with
  | nil => simp
  | cons c cs ih =>
    intro u j hlen
    obtain ⟨hc, hcs⟩ := List.forall_mem_cons.1 hcs
    have hu := length_lt_wantedSize (List.cons_ne_nil _ _) hlen
    rw [List.map_cons, List.append_cons] at hlen ⊢
    rw [List.flatMap_cons, List.append_assoc, scanLoop_piece p hc hu, ih hcs _ _ hlen, List.length_append,
      Nat.add_assoc]

/-- The scan of a first byte and pieces that are not more than a frame (R148). -/
theorem scan_pieces (p : Params) (b : Byte) (rest : List Byte) {cs : List Piece} (hcs : ∀ c ∈ cs, Readable p c)
    (hlen : (b :: cs.map (pieceByte p)).length ≤ wantedSize (b :: cs.map (pieceByte p))) :
    scan p (b :: (cs.flatMap (pieceRaw p) ++ rest)) =
      scanLoop p rest (b :: cs.map (pieceByte p)) (1 + (cs.flatMap (pieceRaw p)).length)
        (wantedSize (b :: cs.map (pieceByte p))) :=
  scanLoop_pieces p rest cs hcs [b] 1 hlen

/-- Pieces that are as many as the length byte asks for are a whole frame, whatever follows. -/
theorem scan_whole (p : Params) (b : Byte) (rest : List Byte) {cs : List Piece} (hcs : ∀ c ∈ cs, Readable p c)
    (hlen : (b :: cs.map (pieceByte p)).length = wantedSize (b :: cs.map (pieceByte p))) :
    scan p (b :: (cs.flatMap (pieceRaw p) ++ rest)) =
      ⟨b :: cs.map (pieceByte p), 1 + (cs.flatMap (pieceRaw p)).length, true⟩ := by
  rw [scan_pieces p b rest hcs hlen.le, Laws.scanLoop_full p rest _ _ _ hlen]

/-- Fewer pieces are less than a frame, with nothing after them or with one ESC, which is not taken (R149). -/
theorem scan_partial (p : Params) (b : Byte) {cs : List Piece} (hcs : ∀ c ∈ cs, Readable p c)
    (hlen : (b :: cs.map (pieceByte p)).length < wantedSize (b :: cs.map (pieceByte p))) {rest : List Byte}
    (hrest : rest = [] ∨ rest = [p.esc]) :
    scan p (b :: (cs.flatMap (pieceRaw p) ++ rest)) =
      ⟨b :: cs.map (pieceByte p), 1 + (cs.flatMap (pieceRaw p)).length, false⟩ := by
  have hstop : ((b :: cs.map (pieceByte p)).length == wantedSize (b :: cs.map (pieceByte p))) = false :=
    beq_false_of_ne hlen.ne
  rw [scan_pieces p b rest hcs hlen.le]
  rcases hrest with rfl | rfl
  · rw [scanLoop, hstop]
  · rw [Laws.scanLoop_turn, if_pos hlen, if_pos rfl, hstop]

/-! ### FDEC on a whole frame (R150, R151, R155) -/

theorem fdecOp_whole {p : Params} {s : State} {u : List Byte} {j : Nat}
    (h : scan p (resync p s.rx.buf) = ⟨u, j, true⟩) : fdecOp p s = respond (deliveryCode u) ((frameFlags u).setWidth 32)
      (((s.deliver u).setRxBuf ((resync p s.rx.buf).drop j) 0).setRxValid true) := by
  rcases Laws.fdecOp_cases p s with ⟨-, hdeliver⟩ | ⟨hpart, -⟩ | ⟨hpart, -⟩
  · rwa [Laws.scanned, h] at hdeliver
  all_goals
    rw [Laws.scanned, h] at hpart
    cases hpart

theorem getLsbD_rxFlagsOf (long payOk hdrOk : Bool) :
    (rxFlagsOf long payOk hdrOk).getLsbD 0 = hdrOk ∧ (rxFlagsOf long payOk hdrOk).getLsbD 1 = payOk ∧
    (rxFlagsOf long payOk hdrOk).getLsbD 2 = long := by
  revert long payOk hdrOk
  decide

theorem headerOk_iff (u : List Byte) :
    headerOk u = true ↔ u.getD 4 0 = csum8 [u.getD 1 0, u.getD 2 0, u.getD 3 0] := beq_iff_eq

theorem payloadOk_iff (u : List Byte) :
    payloadOk u = true ↔ frameLen u = 0 ∨ frameCs16 u = csum16 (framePayload u) := by
  rw [payloadOk, Bool.or_eq_true, beq_iff_eq, beq_iff_eq]

theorem deliveryCode_bits (u : List Byte) :
    (deliveryCode u).bits = if headerOk u && payloadOk u then 0x00 else 0x03 := by
  unfold deliveryCode
  split <;> rfl

theorem toNat_append_byte (high low : Byte) : (high ++ low).toNat = low.toNat + 256 * high.toNat := by
  rw [BitVec.toNat_append, ← Nat.shiftLeft_add_eq_or_of_lt low.isLt, Nat.shiftLeft_eq]
  omega

theorem toNat_frameCs16 (u : List Byte) : (frameCs16 u).toNat =
    if frameLen u = 0 then 0 else (u.getD (5 + frameLen u) 0).toNat + 256 * (u.getD (6 + frameLen u) 0).toNat := by
  unfold frameCs16
  split
  · rfl
  · exact toNat_append_byte _ _

/-- Settles O36: the scan of whole frames by its pieces, and the delivery, field by field. -/
theorem fdecDeliversAWholeFrame : Obligations.FdecDeliversAWholeFrame := by
  refine ⟨?scanned, ?delivered⟩
  case scanned =>
    rintro p b cs _ _ rest hcs rfl rfl hfive hlen
    exact scan_whole p b rest hcs (hlen.trans (if_neg (Nat.not_lt.2 hfive)).symm)
  case delivered =>
    rintro s _ u _ j rfl hscan rfl
    obtain ⟨hflag0, hflag1, hflag2⟩ := getLsbD_rxFlagsOf (frameLen u != 0) (payloadOk u) (headerOk u)
    refine ⟨_, headerOk u, payloadOk u, (Laws.exec_fdec s).trans (congrArg _ (fdecOp_whole hscan)), headerOk_iff u,
      payloadOk_iff u, rfl, rfl, rfl, rfl, rfl, rfl, toNat_frameCs16 u, fun k => Laws.payTable_getElem u k k.isLt,
      hflag0, hflag1, hflag2, ?state⟩
    rw [← deliveryCode_bits]
    rfl

/-! ### FDEC on less than a frame (R152, R153) -/

theorem responseWord_timeout : responseWord .timeout 0 = 0x0000000000000002 := by
  simp [responseWord, Code.bits]

theorem responseWord_incomplete : responseWord .incomplete 0 = 0x0000000000000001 := by
  simp [responseWord, Code.bits]

theorem fdecOp_timeout {p : Params} {s : State} (h : (scan p (resync p s.rx.buf)).complete = false)
    (hidle : s.rx.idle = 2) : fdecOp p s = respond .timeout 0 ((s.setRxBuf [] 0).setRxValid false) := by
  rcases Laws.fdecOp_cases p s with ⟨hcomplete, -⟩ | ⟨-, -, htimeout⟩ | ⟨-, hwait, -⟩
  · exact absurd (hcomplete.symm.trans h) Bool.noConfusion
  · exact htimeout
  · exact absurd hidle hwait

theorem fdecOp_incomplete {p : Params} {s : State} (h : (scan p (resync p s.rx.buf)).complete = false)
    (hidle : s.rx.idle ≠ 2) :
    fdecOp p s = respond .incomplete 0 ((s.setRxBuf (resync p s.rx.buf) s.rx.idle).setRxValid false) := by
  rcases Laws.fdecOp_cases p s with ⟨hcomplete, -⟩ | ⟨-, htwo, -⟩ | ⟨-, -, hwait⟩
  · exact absurd (hcomplete.symm.trans h) Bool.noConfusion
  · exact absurd htwo hidle
  · exact hwait

theorem length_lt_wantedSize_of_partial {u : List Byte}
    (h : u.length < 5 ∨ (u.getD 3 0 ≠ 0 ∧ u.length < 7 + (u.getD 3 0).toNat)) : u.length < wantedSize u := by
  unfold wantedSize
  split
  · assumption
  · obtain ⟨hlong, hlt⟩ := h.resolve_left ‹_›
    rwa [totalSize, if_neg hlong]

/-- Settles O37: the scan of less than a frame by its pieces, and the two outcomes of FDEC then. -/
theorem fdecTimesOutOrWaits : Obligations.FdecTimesOutOrWaits := by
  refine ⟨fun _ => rfl, ?scanned, ?outcome⟩
  case scanned =>
    rintro p b cs _ _ hcs rfl rfl hpartial
    have hlen := length_lt_wantedSize_of_partial hpartial
    have hscan := scan_partial p b hcs hlen (.inl rfl)
    rw [List.append_nil] at hscan
    exact ⟨hscan, scan_partial p b hcs hlen (.inr rfl)⟩
  case outcome =>
    rintro s _ rfl hpart
    refine ⟨fun htwo => ?timeout, fun hwait => ?wait⟩
    case timeout =>
      rw [Laws.exec_fdec, fdecOp_timeout hpart htwo, Laws.respond_eq, responseWord_timeout]
      rfl
    case wait =>
      rw [Laws.exec_fdec, fdecOp_incomplete hpart hwait, Laws.respond_eq, responseWord_incomplete]
      rfl

/-! ### The round trip (R156) -/

/-- The piece that `stuff` makes of a byte (R142). -/
def toPiece (p : Params) (b : Byte) : Piece :=
  if b = p.start ∨ b = p.esc then (b ^^^ p.mask, true) else (b, false)

theorem pieceRaw_toPiece (p : Params) (b : Byte) : pieceRaw p (toPiece p b) = stuffByte p b := by
  unfold toPiece stuffByte
  split <;> rfl

theorem pieceByte_toPiece (p : Params) (b : Byte) : pieceByte p (toPiece p b) = b := by
  unfold toPiece
  split
  · simp [pieceByte]
  · rfl

theorem readable_toPiece (p : Params) (b : Byte) : Readable p (toPiece p b) := by
  unfold toPiece
  split
  case isTrue => exact nofun
  case isFalse hplain => exact fun _ hesc => hplain (.inr hesc)

/-- The scan undoes the escapes of a frame of the right size and leaves what follows. -/
theorem scan_stuff (p : Params) {u : List Byte} (hne : u ≠ []) (hlen : u.length = wantedSize u) (rest : List Byte) :
    scan p (stuff p u ++ rest) = ⟨u, (stuff p u).length, true⟩ := by
  cases u with
  | nil => exact absurd rfl hne
  | cons b bs =>
    have hbytes : (bs.map (toPiece p)).map (pieceByte p) = bs := by simp [pieceByte_toPiece, Function.comp_def]
    have hraw : (bs.map (toPiece p)).flatMap (pieceRaw p) = bs.flatMap (stuffByte p) := by
      simp [List.flatMap_map, pieceRaw_toPiece]
    have hread : ∀ c ∈ bs.map (toPiece p), Readable p c := by simp [readable_toPiece]
    have hscan := scan_whole p b rest hread (by rwa [hbytes])
    rwa [hbytes, hraw, Nat.add_comm] at hscan

section Image

variable (p : Params) (ctrl cmd : Byte) {pay : List Byte}

theorem frameLen_image (hpay : pay.length ≤ 255) : frameLen (image p ctrl cmd pay) = pay.length := by
  rw [image_eq_header_append]
  exact (BitVec.toNat_ofNat _ _).trans (Nat.mod_eq_of_lt (Nat.lt_succ_of_le hpay))

theorem length_image_eq_wantedSize (hpay : pay.length ≤ 255) :
    (image p ctrl cmd pay).length = wantedSize (image p ctrl cmd pay) := by
  have hlen := frameLen_image p ctrl cmd hpay
  by_cases hne : pay = []
  · subst hne
    rfl
  · have hlong : (image p ctrl cmd pay).getD 3 0 ≠ 0 := fun hzero =>
      hne (List.length_eq_zero_iff.1 (hlen.symm.trans (Invariant.frameLen_eq_zero.2 hzero)))
    have hsize := length_image_of_ne_nil p ctrl cmd hne
    rw [wantedSize, if_neg (by omega), totalSize, if_neg hlong, hsize, ← hlen]
    rfl

theorem framePayload_image (hpay : pay.length ≤ 255) : framePayload (image p ctrl cmd pay) = pay := by
  rw [framePayload, frameLen_image p ctrl cmd hpay, drop_image, take_body]

theorem highByte_append_lowByte (c : BitVec 16) : highByte c ++ lowByte c = c := by
  apply BitVec.eq_of_toNat_eq
  rw [toNat_append_byte, Checksum.toNat_lowByte, Checksum.toNat_highByte]
  exact Nat.mod_add_div _ _

theorem headerOk_image : headerOk (image p ctrl cmd pay) = true := by
  rw [headerOk_iff, image_eq_header_append]
  rfl

theorem payloadOk_image (hpay : pay.length ≤ 255) : payloadOk (image p ctrl cmd pay) = true := by
  have hlen := frameLen_image p ctrl cmd hpay
  rw [payloadOk_iff, framePayload_image p ctrl cmd hpay, frameCs16, hlen]
  by_cases hne : pay = []
  · exact .inl (List.length_eq_zero_iff.2 hne)
  · right
    rw [if_neg (mt List.length_eq_zero_iff.1 hne), show 6 + pay.length = pay.length + 1 + 5 by omega,
      Nat.add_comm 5, getD_image, getD_image, getD_body_high hne, getD_body_low hne, highByte_append_lowByte]

theorem deliveryCode_image (hpay : pay.length ≤ 255) : deliveryCode (image p ctrl cmd pay) = .ok := by
  simp [deliveryCode, headerOk_image, payloadOk_image p ctrl cmd hpay]

theorem take_payTable_image (hpay : pay.length ≤ 255) :
    (payTable (image p ctrl cmd pay)).toList.take pay.length = pay := by
  have hlen := frameLen_image p ctrl cmd hpay
  have hsize : 5 + frameLen (image p ctrl cmd pay) ≤ (image p ctrl cmd pay).length := by
    rw [hlen, image_eq_header_append, List.length_append]
    exact Nat.add_le_add_left (length_le_length_body pay) 5
  rw [← hlen, Invariant.take_payTable hsize, framePayload_image p ctrl cmd hpay]

end Image

/-- Garbage without START in front of a raw frame is dropped (R147). -/
theorem resync_append_stuff_image (p : Params) (ctrl cmd : Byte) (pay rest : List Byte) {g : List Byte}
    (hg : p.start ∉ g) :
    resync p (g ++ stuff p (image p ctrl cmd pay) ++ rest) = stuff p (image p ctrl cmd pay) ++ rest := by
  obtain ⟨tail, himage, -⟩ := Invariant.image_eq_start_cons p ctrl cmd pay
  rw [himage, stuff, List.append_assoc, List.cons_append, Laws.resync_append p g _ hg]

/-- Settles O38: the scan undoes the escapes of the image, whose checksums are good. -/
theorem encodedFrameDecodesToItself : Obligations.EncodedFrameDecodesToItself := by
  intro s ctrl cmd pay g rest hpay hg hbuf
  have hresync : resync Config.params s.rx.buf = stuff Config.params (image Config.params ctrl cmd pay) ++ rest := by
    rw [hbuf, resync_append_stuff_image _ ctrl cmd pay rest hg]
  have hne : image Config.params ctrl cmd pay ≠ [] := by
    rw [image_eq_header_append]
    exact List.cons_ne_nil _ _
  have hscan := scan_stuff Config.params hne (length_image_eq_wantedSize _ ctrl cmd hpay) rest
  have hfdec := fdecOp_whole ((congrArg _ hresync).trans hscan)
  obtain ⟨hflag0, hflag1, -⟩ := getLsbD_rxFlagsOf (frameLen (image Config.params ctrl cmd pay) != 0)
    (payloadOk (image Config.params ctrl cmd pay)) (headerOk (image Config.params ctrl cmd pay))
  refine ⟨_, (Laws.exec_fdec s).trans (congrArg _ hfdec), ?code, rfl, ?ctrlByte, ?cmdByte,
    frameLen_image _ ctrl cmd hpay, take_payTable_image _ ctrl cmd hpay, hflag0.trans (headerOk_image _ ctrl cmd),
    hflag1.trans (payloadOk_image _ ctrl cmd hpay), ?rest⟩
  case code => rw [Laws.respond_status_lastCode, deliveryCode_image _ ctrl cmd hpay, Code.bits]
  case ctrlByte =>
    rw [image_eq_header_append]
    rfl
  case cmdByte =>
    rw [image_eq_header_append]
    rfl
  case rest =>
    rw [hresync]
    exact List.drop_left

/-! ### What FDEC leaves in RXBUF (R155, R158) -/

theorem fdecOp_buf_suffix (p : Params) (s : State) : (fdecOp p s).rx.buf <:+ s.rx.buf := by
  have hresync := Laws.resync_suffix p s.rx.buf
  rcases Laws.fdecOp_cases p s with ⟨-, hdeliver⟩ | ⟨-, -, htimeout⟩ | ⟨-, -, hwait⟩
  · rw [hdeliver]
    exact (List.drop_suffix _ _).trans hresync
  · rw [htimeout]
    exact List.nil_suffix
  · rw [hwait]
    exact hresync

/-- Settles O40: each of FDEC's three outcomes leaves a suffix. -/
theorem fdecOnlyRemovesFromTheFront : Obligations.FdecOnlyRemovesFromTheFront := by
  intro s
  obtain ⟨taken, htaken⟩ := fdecOp_buf_suffix Config.params s
  exact ⟨_, taken, Laws.exec_fdec s, htaken.symm⟩

/-- The size expected does not shrink as bytes are read. -/
theorem wantedSize_le_append (u : List Byte) (x : Byte) : wantedSize u ≤ wantedSize (u ++ [x]) := by
  unfold wantedSize
  rw [List.length_append, List.length_singleton]
  split
  · split
    · exact le_rfl
    · exact Laws.five_le_totalSize _
  · rw [if_neg (by omega), List.getD_append _ _ _ _ (by omega)]

/-- With two raw bytes left the scan of less than a frame reads one byte more, from one or two of them. -/
theorem scanLoop_takes (p : Params) {bs u : List Byte} (hu : u.length < wantedSize u) (hbs : 2 ≤ bs.length) (j : Nat) :
    ∃ x k, k ≤ 2 ∧
      scanLoop p bs u j (wantedSize u) = scanLoop p (bs.drop k) (u ++ [x]) (j + k) (wantedSize (u ++ [x])) := by
  cases bs with
  | nil => simp at hbs
  | cons b rest =>
    rcases Laws.scanLoop_cons p b rest u j (wantedSize u) with
      ⟨hfull, -⟩ | ⟨-, -, rfl, -⟩ | ⟨b', rest', -, -, rfl, hturn⟩ | ⟨-, -, hturn⟩
    · exact absurd hu hfull
    · simp at hbs
    · exact ⟨b' ^^^ p.mask, 2, le_rfl, by rw [hturn, expectedSize_wantedSize]; rfl⟩
    · exact ⟨b, 1, by omega, by rw [hturn, expectedSize_wantedSize]; rfl⟩

/-- A frame has at most 262 bytes (R90), and two raw bytes make at least one of them. -/
theorem scanLoop_complete (p : Params) (n : Nat) : ∀ (bs u : List Byte) (j : Nat), u.length ≤ wantedSize u →
    262 ≤ u.length + n → 2 * n ≤ bs.length → (scanLoop p bs u j (wantedSize u)).complete = true := by
  induction n with
  | zero =>
    intro bs u j hlen hall _
    have hfull := hlen.antisymm ((wantedSize_le u).trans hall)
    rw [Laws.scanLoop_full p bs u j _ hfull]
  | succ n ih =>
    intro bs u j hlen hall hroom
    rcases hlen.eq_or_lt with hfull | hlt
    · rw [Laws.scanLoop_full p bs u j _ hfull]
    · have htwo : 2 ≤ bs.length := by omega
      obtain ⟨x, k, hk, hturn⟩ := scanLoop_takes p hlt htwo j
      have hgrow := wantedSize_le_append u x
      have hread : (u ++ [x]).length = u.length + 1 := List.length_append
      have hleft : (bs.drop k).length = bs.length - k := List.length_drop
      rw [hturn]
      exact ih _ _ _ (by omega) (by omega) (by omega)

/-- 523 raw bytes from a START on hold a whole frame (R158). -/
theorem scan_complete_of_length (p : Params) {rest : List Byte} (h : 522 ≤ rest.length) :
    (scan p (p.start :: rest)).complete = true :=
  scanLoop_complete p 261 rest [p.start] 1 (by simp [wantedSize]) le_rfl h

/-- An FDEC on a buffer within its capacity leaves room in it (R158). -/
theorem length_fdecOp_buf_lt {p : Params} {s : State} (h : s.rx.buf.length ≤ p.rxbufCap) :
    (fdecOp p s).rx.buf.length < p.rxbufCap := by
  have hcap := p.rxbufCap_ge
  have hresync := (Laws.resync_suffix p s.rx.buf).length_le
  rcases Laws.fdecOp_cases p s with ⟨hcomplete, hdeliver⟩ | ⟨-, -, htimeout⟩ | ⟨hpart, -, hwait⟩
  · rw [hdeliver]
    show ((resync p s.rx.buf).drop (Laws.scanned p s).taken).length < p.rxbufCap
    rw [Laws.scanned, List.length_drop]
    rcases Laws.resync_head p s.rx.buf with hempty | ⟨rest, hstart⟩
    · rw [hempty, List.length_nil]
      omega
    · have htaken := (Laws.scan_spec p p.start rest).1
      rw [hstart] at hresync ⊢
      omega
  · rw [htimeout]
    show 0 < p.rxbufCap
    omega
  · rw [hwait]
    show (resync p s.rx.buf).length < p.rxbufCap
    rcases Laws.resync_head p s.rx.buf with hempty | ⟨rest, hstart⟩
    · rw [hempty, List.length_nil]
      omega
    · rw [Laws.scanned, hstart] at hpart
      have hshort : ¬ 522 ≤ rest.length := fun hlong => by
        rw [scan_complete_of_length p hlong] at hpart
        cases hpart
      rw [hstart, List.length_cons]
      omega

/-- Settles O39: the room that FDEC leaves is enough for the RXDATA after it. -/
theorem fullBufferAlwaysDrains : Obligations.FullBufferAlwaysDrains := by
  refine ⟨fun p rest => scan_complete_of_length p, fun s hfull => ?_⟩
  have hroom := length_fdecOp_buf_lt hfull.le
  refine ⟨_, Laws.exec_fdec s, hroom, fun b => ⟨_, Laws.exec_rxdata b _, ?buf, ?fault⟩⟩
  case buf => rw [rxdataOp_appends _ b hroom.ne, Laws.respond_rx, Laws.setRxBuf_rx_buf]
  case fault => rw [rxdataOp_appends _ b hroom.ne, Laws.respond_fault, Laws.setRxBuf_fault]

end Sys2Proof.Proofs.FrameCodec
end

section
/-! PROOF. The values that SOLVE and REFINE compute (43_delay_solver.md R172 to R182, R187, R190, R192, R194): the ideal
delay, the candidates and their costs, the selection, the fine delay and its residual, and the bounds of R176. -/

namespace Sys2Proof.Proofs.DelaySolver

open Sys2Proof Sys2Proof.Machine

/-! ### The ideal delay (R172 to R174, R194) -/

/-- The projection with the two pairs of SINCOS named (R172, R173). -/
theorem projection_eq {p : Params} {d : SolverIn} {sa ca sz cz : Int} (haz : p.sincos d.az.toInt = (sa, ca))
    (hel : p.sincos (quarterTurn - d.el.toInt) = (sz, cz)) (i : Dipole) :
    projection p d i = (((d.posX[i].toInt - d.offX.toInt) * sa + (d.posY[i].toInt - d.offY.toInt) * ca) * sz +
      (d.posZ[i].toInt - d.offZ.toInt) * cz * 2 ^ 30) * p.cInv := by
  rw [projection, haz, hel]

/-- Settles O43: the unit in the statement is `unitOf i`, and 90° is the model's quarter turn. -/
theorem idealDelayFormula : Obligations.IdealDelayFormula := by
  rintro p d i u sa ca sz cz dx dy dz hu haz hel rfl rfl rfl
  obtain rfl : u = unitOf i := Fin.ext hu
  rw [idealDelay, projection_eq haz.symm hel.symm]

/-- A common factor does not change a rounded quotient (R11). -/
theorem rnd_mul_mul_right (n d : Int) {k : Int} (hk : 0 < k) : rnd (n * k) (d * k) = rnd n d := by
  have habs : ((n * k).natAbs : Int) = n.natAbs * k := by
    rw [Int.natAbs_mul, Int.natCast_mul, Int.natAbs_of_nonneg hk.le]
  have hnum : 2 * ((n.natAbs : Int) * k) + d * k = (2 * n.natAbs + d) * k := by ring
  rw [rnd, rnd, habs, hnum, ← mul_assoc, Int.mul_ediv_mul_of_pos_left _ _ hk, Int.sign_mul,
    Int.sign_eq_one_of_pos hk, mul_one]

/-- At the zenith angle 0 the sine is 0 and the cosine `2^30`, so of the projection only the height is left (R194). -/
theorem projection_zenith (p : Params) {d : SolverIn} (hel : d.el.toInt = quarterTurn) (i : Dipole) :
    projection p d i = (d.posZ[i].toInt - d.offZ.toInt) * p.cInv * 2 ^ 60 := by
  have hzero : p.sincos (quarterTurn - d.el.toInt) = (0, 2 ^ 30) := by rw [hel, sub_self, p.sincos_0]
  rw [projection_eq rfl hzero]
  ring

theorem idealDelay_zenith (p : Params) {d : SolverIn} (hel : d.el.toInt = quarterTurn) (i : Dipole) :
    idealDelay p d i =
      rnd ((d.posZ[i].toInt - d.offZ.toInt) * p.cInv) (2 ^ 36) + d.corr[unitOf i].toInt := by
  rw [idealDelay, projection_zenith p hel, show (2 : Int) ^ 96 = 2 ^ 36 * 2 ^ 60 by norm_num,
    rnd_mul_mul_right _ _ (by norm_num)]

/-! ### The fine delay and its residual (R181, R182, R192) -/

theorem solveFine_of_clip {p : Params} {d : SolverIn} (hclip : clipBit d = true) (i : Dipole) :
    solveFine p d i = clamp (trialFine p (idealDelay p d i) (solveCoarse p d (unitOf i))) fineMin fineMax :=
  if_pos hclip

theorem solveFine_of_not_clip {p : Params} {d : SolverIn} (hclip : clipBit d = false) (i : Dipole) :
    solveFine p d i = trialFine p (idealDelay p d i) (solveCoarse p d (unitOf i)) :=
  if_neg (ne_true_of_eq_false hclip)

/-- The residual of a trial fine delay is what its rounding left, at most half a first-stage step (R182, R11). -/
theorem abs_residualOf_trialFine_le (p : Params) (ideal c : Int) :
    2 * |residualOf p ideal (trialFine p ideal c) c| ≤ p.fs := by
  have hfs : (0 : Int) < p.fs := by exact_mod_cast p.fs_pos
  have hrest : residualOf p ideal (trialFine p ideal c) c =
      ideal - c * p.ss - p.fs * rnd (ideal - c * p.ss) p.fs := by
    rw [residualOf, trialFine]
    ring
  exact hrest ▸ Laws.abs_sub_mul_rnd_le _ _ hfs

theorem abs_solveResidual_le_of_unclamped {p : Params} {d : SolverIn} {i : Dipole}
    (hfine : solveFine p d i = trialFine p (idealDelay p d i) (solveCoarse p d (unitOf i))) :
    2 * |solveResidual p d i| ≤ p.fs := by
  rw [solveResidual, hfine]
  exact abs_residualOf_trialFine_le _ _ _

/-- Settles O49: the two branches of CLIP, and the half-step bound where the fine delay is the trial one. -/
theorem fineDelayAndResidual : Obligations.FineDelayAndResidual := by
  rintro p d i c f rfl rfl
  exact ⟨fun hclip => solveFine_of_clip hclip i, fun hclip => solveFine_of_not_clip hclip i, rfl,
    abs_solveResidual_le_of_unclamped⟩

/-- Settles O44: only the height term is left, it rounds to 0 at the height of the offset, and an unclamped fine delay is
the trial one. -/
theorem zenithDelayIsTheHeightTerm : Obligations.ZenithDelayIsTheHeightTerm := by
  intro p d i hel
  have hideal := idealDelay_zenith p hel i
  refine ⟨hideal, fun hheight => ?flat, abs_solveResidual_le_of_unclamped⟩
  case flat => rw [hideal, hheight, sub_self, zero_mul, Laws.rnd_zero, zero_add]

theorem solveFine_range_of_clip {p : Params} {d : SolverIn} (hclip : clipBit d = true) (i : Dipole) :
    -16 ≤ solveFine p d i ∧ solveFine p d i ≤ 15 := by
  rw [solveFine_of_clip hclip]
  exact ⟨Laws.le_clamp _ _ _, Laws.clamp_le (by decide)⟩

theorem isMarked_iff {p : Params} {d : SolverIn} {i : Dipole} : isMarked p d i = true ↔
    strictBit d = false ∧ clipBit d = true ∧ d.errlim.toNat < (solveResidual p d i).natAbs := by
  simp [isMarked, isOver, and_assoc]

/-- Settles O50: the sentinel is above every clamped fine delay, so only the marking puts it there. -/
theorem sentinelComesOnlyFromMarking : Obligations.SentinelComesOnlyFromMarking := by
  intro p d i hclip
  obtain ⟨hlo, hhi⟩ := solveFine_range_of_clip (p := p) hclip i
  refine ⟨hlo, hhi, ?_⟩
  have hmark : isMarked p d i = true ↔
      strictBit d = false ∧ d.errlim.toNat < (solveResidual p d i).natAbs := by
    rw [isMarked_iff, and_iff_right hclip]
  rw [← hmark, committedFine]
  split
  case isTrue hmarked => exact iff_of_true rfl hmarked
  case isFalse hplain => exact iff_of_false (by omega) hplain

/-! ### The candidates (R177, R178, R190) -/

theorem length_unitDipoles (d : SolverIn) (u : Unit16) :
    (unitDipoles d u).length = (Finset.univ.filter (fun i => unitOf i = u ∧ isValid d i = true)).card := by
  rw [← Laws.unitDipoles_toFinset, List.toFinset_card_of_nodup (Laws.unitDipoles_nodup d u)]

/-- Settles O45: the loop's sum is the sum over the set, and its count the number of elements. -/
theorem naiveCandidateIsTheClampedMean : Obligations.NaiveCandidateIsTheClampedMean := by
  rintro p d u v rfl -
  rw [naiveCoarse, Laws.sumOver_eq _ _ (Laws.unitDipoles_nodup d u), Laws.unitDipoles_toFinset, length_unitDipoles]
  rfl

theorem mem_candidates {p : Params} {opt : Bool} {n0 x : Int} : x ∈ candidates p opt n0 ↔
    x ∈ (if opt then { x | n0 - 6 ≤ x ∧ -128 + (p.h : Int) ≤ x ∧ x ≤ n0 + 6 ∧ x ≤ 127 - (p.h : Int) }
      else { n0 } : Set Int) := by
  cases opt
  · simp [candidates]
  · simp [candidates, window, coarseMin, coarseMax, and_assoc]

/-! ### The selection (R180) -/

/-- The choice is a candidate, none costs less, and every lower one costs more (R180). -/
theorem chooseCoarse_spec (p : Params) (d : SolverIn) (cost : Int → Cost) (u : Unit16) :
    chooseCoarse p d cost u ∈ candidates p (optBit d) (naiveCoarse p d u) ∧
    (∀ x ∈ candidates p (optBit d) (naiveCoarse p d u),
      costLt (cost x) (cost (chooseCoarse p d cost u)) = false) ∧
    (∀ x ∈ candidates p (optBit d) (naiveCoarse p d u), x < chooseCoarse p d cost u →
      costLt (cost (chooseCoarse p d cost u)) (cost x) = true) := by
  obtain ⟨hnaive, -, hsorted⟩ := Laws.candidates_spec p d u
  unfold chooseCoarse
  cases hcs : candidates p (optBit d) (naiveCoarse p d u) with
  | nil => simp [hcs] at hnaive
  | cons c cs => exact Laws.pickFrom_spec cost cs c (hcs ▸ hsorted)

/-- Settles O48: both commands select by `chooseCoarse`, each with its own cost. -/
theorem selectionIsTheLowestLeastCost : Obligations.SelectionIsTheLowestLeastCost := by
  rintro p d fine u cost n0 c cs rfl hcommand rfl
  obtain rfl : c = chooseCoarse p d cost u := by
    rcases hcommand with ⟨rfl, rfl⟩ | ⟨rfl, rfl⟩ <;> rfl
  obtain ⟨hlo, hhi⟩ := Laws.chooseCoarse_range p d cost u
  obtain ⟨hmem, hleast, hlowest⟩ := chooseCoarse_spec p d cost u
  refine ⟨mem_candidates.1 (Laws.candidates_spec p d u).1, mem_candidates.1 hmem, hlo, hhi,
    fun x hx => ?_, fun x hx hlt => ?_⟩
  · exact (Laws.costLt_eq_false _ _).1 (hleast x (mem_candidates.2 hx))
  · exact (Laws.costLt_iff _ _).1 (hlowest x (mem_candidates.2 hx) hlt)

/-! ### The costs (R179, R187) -/

/-- A loop that adds to both parts of a cost leaves the two sums. -/
theorem foldl_addCost (a : Dipole → Nat) (b : Dipole → Int) (l : List Dipole) (h : l.Nodup) : ∀ x : Cost,
    l.foldl (fun x i => (x.1 + a i, x.2 + b i)) x = (x.1 + ∑ i ∈ l.toFinset, a i, x.2 + ∑ i ∈ l.toFinset, b i) := by
  induction l with
  | nil => simp
  | cons i is ih =>
    intro x
    obtain ⟨hi, his⟩ := List.nodup_cons.1 h
    have hnew : i ∉ is.toFinset := by rwa [List.mem_toFinset]
    rw [List.foldl_cons, ih his, List.toFinset_cons, Finset.sum_insert hnew, Finset.sum_insert hnew,
      add_assoc, add_assoc]

/-- What each valid dipole of a unit adds to the two parts, summed over the unit. -/
theorem foldl_unitDipoles (d : SolverIn) (u : Unit16) (a : Dipole → Nat) (b : Dipole → Int) :
    (unitDipoles d u).foldl (fun x i => (x.1 + a i, x.2 + b i)) ((0, 0) : Cost) =
      (∑ i with unitOf i = u ∧ isValid d i = true, a i, ∑ i with unitOf i = u ∧ isValid d i = true, b i) := by
  rw [foldl_addCost a b _ (Laws.unitDipoles_nodup d u), Laws.unitDipoles_toFinset, zero_add, zero_add]

/-- One dipole's part of a cost in SOLVE, as what it adds to each part (R179). -/
theorem addSolveCost_eq (p : Params) (ideal c : Int) (x : Cost) : addSolveCost p ideal c x =
    (x.1 + if trialFine p ideal c < -16 ∨ 15 < trialFine p ideal c then 1 else 0,
      x.2 + if ¬ (trialFine p ideal c < -16 ∨ 15 < trialFine p ideal c) then
        residualOf p ideal (trialFine p ideal c) c ^ 2 else 0) := by
  by_cases hout : trialFine p ideal c < -16 ∨ 15 < trialFine p ideal c
  · simp [addSolveCost, fineMin, fineMax, hout]
  · simp [addSolveCost, fineMin, fineMax, hout]

/-- One dipole's part of a cost in REFINE, as what it adds to each part (R187). -/
theorem addRefineCost_eq (p : Params) (ideal g c : Int) (x : Cost) : addRefineCost p ideal g c x =
    (x.1 + 0, x.2 + if g ≠ 16 then residualOf p ideal g c ^ 2 else 0) := by
  by_cases hsent : g = 16
  · simp [addRefineCost, sentinel, hsent]
  · simp [addRefineCost, sentinel, hsent]

/-- Settles O46: the loop adds 1 to the first part for a dipole out of range, a square to the second for any other. -/
theorem solveCostCountsAndSquares : Obligations.SolveCostCountsAndSquares := by
  rintro p d u c v out f rfl hf rfl
  obtain rfl : f = fun i => trialFine p (idealDelay p d i) c := funext hf
  simp only [solveCost, addSolveCost_eq]
  rw [foldl_unitDipoles, ← Finset.filter_not, ← Finset.card_filter, ← Finset.sum_filter]
  rfl

/-- Settles O47: the loop adds a square to the second part for a dipole that is not at the sentinel, and no more. -/
theorem refineCostLeavesSentinelsOut : Obligations.RefineCostLeavesSentinelsOut := by
  rintro p d fine u c v rfl
  simp only [refineCost, addRefineCost_eq]
  rw [foldl_unitDipoles, Finset.sum_const_zero, ← Finset.sum_filter, Finset.filter_filter]
  simp only [and_assoc]
  rfl

end Sys2Proof.Proofs.DelaySolver
end

section
/-! PROOF. The magnitudes of a SOLVE and of a REFINE with legal inputs (43_delay_solver.md R176), from the bounds of one
dipole's values: the values read back from their registers, and the sums of squares fit. -/

namespace Sys2Proof.Proofs.DelaySolver

open Sys2Proof Sys2Proof.Machine

/-- A step is at least one picosecond, so a fine delay is not above its own length (R176). -/
theorem abs_le_abs_mul_fs (p : Params) (f : Int) : |f| ≤ |f * (p.fs : Int)| := by
  have hstep : (1 : Int) ≤ |(p.fs : Int)| := (show (1 : Int) ≤ p.fs by exact_mod_cast p.fs_pos).trans (le_abs_self _)
  rw [abs_mul]
  exact le_mul_of_one_le_right (abs_nonneg f) hstep

/-! ### Sums of squares -/

/-- As many squares as the set has elements, each of a residual below `2^30` (R176). -/
theorem sum_sq_le {r : Dipole → Int} (s : Finset Dipole) (hr : ∀ i, |r i| < 2 ^ 30) :
    ∑ i ∈ s, r i ^ 2 ≤ s.card * (2 ^ 30 - 1) ^ 2 := by
  have hsq : ∀ i ∈ s, r i ^ 2 ≤ (2 ^ 30 - 1) ^ 2 := fun i _ =>
    sq_le_sq.2 ((Int.le_sub_one_of_lt (hr i)).trans (le_abs_self _))
  simpa using Finset.sum_le_card_nsmul s _ _ hsq

theorem sum_natAbs_sq_lt {r : Dipole → Int} (hr : ∀ i, |r i| < 2 ^ 30) : ∑ i : Dipole, (r i).natAbs ^ 2 < 2 ^ 68 := by
  have hsum := sum_sq_le Finset.univ hr
  zify
  simp only [sq_abs]
  rw [Finset.card_univ, Fintype.card_fin] at hsum
  omega

/-- A unit has sixteen dipoles (10_state.md R42). -/
theorem card_unit_le (d : SolverIn) (u : Unit16) :
    (Finset.univ.filter (fun i => unitOf i = u ∧ isValid d i = true)).card ≤ 16 := by
  rw [← length_unitDipoles]
  exact (List.length_filter_le _ _).trans_eq (by rw [List.length_map, List.length_finRange])

/-- The second part of a cost: squares of the residuals of some valid dipoles of one unit (R176, R179, R187). -/
theorem sum_sq_unit_range (d : SolverIn) (u : Unit16) {s : Finset Dipole} {r : Dipole → Int}
    (hs : s ⊆ Finset.univ.filter (fun i => unitOf i = u ∧ isValid d i = true)) (hr : ∀ i, |r i| < 2 ^ 30) :
    0 ≤ ∑ i ∈ s, r i ^ 2 ∧ ∑ i ∈ s, r i ^ 2 < 2 ^ 64 := by
  have hsum := sum_sq_le s hr
  have hcard := (Finset.card_le_card hs).trans (card_unit_le d u)
  exact ⟨Finset.sum_nonneg fun i _ => sq_nonneg _, by omega⟩

/-! ### SOLVE and REFINE -/

section Legal

variable (p : Params) {d : SolverIn} (hin : InputsLegal d) (hel : elevationBad d = false)
include hin hel

theorem solveCost_bounded (u : Unit16) {c : Int} (hlo : coarseMin p ≤ c) (hhi : c ≤ coarseMax p) :
    (solveCost p d u c).1 ≤ 16 ∧ 0 ≤ (solveCost p d u c).2 ∧ (solveCost p d u c).2 < 2 ^ 64 := by
  have hr : ∀ i, |residualOf p (idealDelay p d i) (trialFine p (idealDelay p d i) c) c| < 2 ^ 30 := fun i =>
    have hideal := SolverBounds.abs_idealDelay_lt p hin hel i
    have hcoarse := SolverBounds.abs_coarse_mul_lt hlo hhi
    SolverBounds.abs_residualOf_lt hideal (SolverBounds.abs_trialFine_mul_lt hideal hcoarse) hcoarse
  rw [solveCostCountsAndSquares p d u c _ _ _ rfl (fun _ => rfl) rfl]
  dsimp only
  exact ⟨(Finset.card_filter_le _ _).trans (card_unit_le d u), sum_sq_unit_range d u Finset.sdiff_subset hr⟩

theorem refineCost_bounded {fine : Vector Word 256} (hfine : FineBounded p fine) (u : Unit16) {c : Int}
    (hlo : coarseMin p ≤ c) (hhi : c ≤ coarseMax p) :
    0 ≤ (refineCost p d fine u c).2 ∧ (refineCost p d fine u c).2 < 2 ^ 64 := by
  have hr : ∀ i, |residualOf p (idealDelay p d i) (existingFine fine i) c| < 2 ^ 30 := fun i =>
    SolverBounds.abs_residualOf_lt (SolverBounds.abs_idealDelay_lt p hin hel i) (hfine i)
      (SolverBounds.abs_coarse_mul_lt hlo hhi)
  rw [refineCostLeavesSentinelsOut p d fine u c _ rfl]
  dsimp only
  refine sum_sq_unit_range d u (fun i hi => ?_) hr
  obtain ⟨hu, hvalid, -⟩ := (Finset.mem_filter.1 hi).2
  exact Finset.mem_filter.2 ⟨Finset.mem_univ i, hu, hvalid⟩

end Legal

/-- Settles O55: the bounds of one dipole's values, the range of the chosen coarse delay, and the sums of squares. -/
theorem solveValuesFitTheirRegisters : Obligations.SolveValuesFitTheirRegisters := by
  intro p d hin hlo hhi
  have hel : elevationBad d = false := SolverBounds.elevationBad_eq_false.2 ⟨hlo, hhi⟩
  have hresid := SolverBounds.abs_solveResidual_lt p hin hel
  refine ⟨fun i => ⟨SolverBounds.abs_idealDelay_lt p hin hel i, ?fine, hresid i, ?committed, ?readFine, ?readErr⟩,
    fun u => ?readCoarse, sum_natAbs_sq_lt hresid, fun u c => solveCost_bounded p hin hel u⟩
  case fine =>
    calc |solveFine p d i| ≤ |solveFine p d i * (p.fs : Int)| := abs_le_abs_mul_fs p _
      _ < 2 ^ 28 + 2 ^ 24 := SolverBounds.abs_solveFine_mul_lt p hin hel i
      _ < 2 ^ 29 := by norm_num
  case committed => exact SolverBounds.abs_committedFine_mul_lt p hin hel i
  case readFine => exact SolverBounds.toInt_to32_fine (SolverBounds.abs_committedFine_mul_lt p hin hel i)
  case readErr => exact SolverBounds.toInt_to32_of_abs_lt (hresid i)
  case readCoarse =>
    obtain ⟨hmin, hmax⟩ := Laws.chooseCoarse_range p d (solveCost p d u) u
    exact SolverBounds.toInt_to32_coarse hmin hmax

/-- Settles O56: as for SOLVE, with the bounded fine delays that stand in the table. -/
theorem refineValuesFitTheirRegisters : Obligations.RefineValuesFitTheirRegisters := by
  intro p d fine hin hfine hlo hhi
  have hel : elevationBad d = false := SolverBounds.elevationBad_eq_false.2 ⟨hlo, hhi⟩
  have hresid := SolverBounds.abs_refineResidual_lt p hin hel hfine
  exact ⟨fun i => ⟨hresid i, SolverBounds.toInt_to32_of_abs_lt (hresid i)⟩, sum_natAbs_sq_lt hresid,
    fun u c => refineCost_bounded p hin hel hfine u⟩

end Sys2Proof.Proofs.DelaySolver
end

section
/-! PROOF. The commands SOLVE and REFINE (43_delay_solver.md R171, R175, R183 to R189, R191): the checks that end them
early, what they commit, and what their results depend on. -/

namespace Sys2Proof.Proofs.SolverCommands

open Sys2Proof Sys2Proof.Machine Sys2Proof.Proofs.DelaySolver

/-! ### The shape that the two commands share -/

/-- The outcome of the first check that fails, in the order of R186 and R189; none when all pass. -/
def firstFailure (d : SolverIn) (resid : Dipole → Int) : Option Code :=
  if elevationBad d then some .eZenith
  else if (validDipoles d).isEmpty then some .eEmpty
  else if strictBit d && !(overLimit d resid).isEmpty then some .eErrlim
  else none

/-- The end of a SOLVE or a REFINE, from the values it computed: its failure outcome, or the commit (R185). -/
def conclude (s : State) (fine : Vector Word 256) (coarse : Unit16 → Int) (resid : Dipole → Int) (disabled : Nat) :
    State :=
  match firstFailure s.din resid with
  | some c => failSolve c s
  | none => respond .ok (BitVec.ofNat 32 disabled) (s.commit fine (committedOut s.din s.dout coarse resid disabled))

/-- SOLVE concludes with its table of fine delays, coarse delays and residuals, and the dipoles it marks (R186). -/
theorem exec_solve_eq (s : State) : exec .solve s = .next (conclude s (solvedFine Config.params s.din s.fine)
    (solveCoarse Config.params s.din) (solveResidual Config.params s.din) (solveDisabled Config.params s.din)) := by
  rw [Laws.exec_solve]
  unfold solveOp conclude firstFailure
  split_ifs <;> rfl

/-- REFINE concludes with FINE as it was, and the dipoles at the sentinel (R189). -/
theorem exec_refine_eq (s : State) : exec .refine s = .next (conclude s s.fine
    (refineCoarse Config.params s.din s.fine) (refineResidual Config.params s.din s.fine)
    (refineDisabled s.din s.fine)) := by
  rw [Laws.exec_refine]
  unfold refineOp conclude firstFailure
  split_ifs <;> rfl

/-! ### The checks (R171, R183) -/

theorem overLimit_eq_nil {d : SolverIn} {resid : Dipole → Int} :
    overLimit d resid = [] ↔ ∀ i, isValid d i = true → (resid i).natAbs ≤ d.errlim.toNat := by
  simp [overLimit, isOver, List.filter_eq_nil_iff]

theorem validDipoles_eq_nil_of_pvalid {d : SolverIn} (h : ∀ w : Fin 8, d.pvalid[w] = 0) : validDipoles d = [] := by
  refine List.filter_eq_nil_iff.2 fun i _ => ?_
  have hword : d.pvalid[i.val / 32] = 0 := h ⟨i.val / 32, by omega⟩
  rw [isValid, hword]
  simp

theorem elevationBad_iff {d : SolverIn} : elevationBad d = true ↔ d.el.toInt < 0 ∨ 90 * 2 ^ 16 < d.el.toInt := by
  simp [elevationBad]

section Failure

variable {d : SolverIn} {resid : Dipole → Int}

theorem firstFailure_of_elevation (h : elevationBad d = true) : firstFailure d resid = some .eZenith := if_pos h

theorem firstFailure_of_empty (hel : elevationBad d = false) (hempty : validDipoles d = []) :
    firstFailure d resid = some .eEmpty := by
  simp [firstFailure, hel, hempty]

theorem firstFailure_of_over (hel : elevationBad d = false) (hstrict : strictBit d = true) {i : Dipole}
    (hvalid : isValid d i = true) (hover : d.errlim.toNat < (resid i).natAbs) :
    firstFailure d resid = some .eErrlim := by
  have hmem : validDipoles d ≠ [] := List.ne_nil_of_mem ((Laws.mem_validDipoles d i).2 hvalid)
  have hlist : overLimit d resid ≠ [] := fun hnil => absurd (overLimit_eq_nil.1 hnil i hvalid) (by omega)
  simp [firstFailure, hel, hmem, hstrict, hlist]

theorem firstFailure_eq_none (hel : elevationBad d = false) {i : Dipole} (hvalid : isValid d i = true)
    (hlimit : strictBit d = true → ∀ i, isValid d i = true → (resid i).natAbs ≤ d.errlim.toNat) :
    firstFailure d resid = none := by
  have hmem : validDipoles d ≠ [] := List.ne_nil_of_mem ((Laws.mem_validDipoles d i).2 hvalid)
  have hstrict : strictBit d = true → overLimit d resid = [] := fun h => overLimit_eq_nil.2 (hlimit h)
  simpa [firstFailure, hel, hmem] using hstrict

end Failure

section Conclude

variable {s : State} {fine : Vector Word 256} {coarse : Unit16 → Int} {resid : Dipole → Int} {disabled : Nat}

theorem conclude_of_failure {c : Code} (h : firstFailure s.din resid = some c) :
    conclude s fine coarse resid disabled = failSolve c s := by
  rw [conclude, h]

theorem conclude_of_pass (h : firstFailure s.din resid = none) : conclude s fine coarse resid disabled =
    respond .ok (BitVec.ofNat 32 disabled) (s.commit fine (committedOut s.din s.dout coarse resid disabled)) := by
  rw [conclude, h]

end Conclude

theorem exec_solve_of_failure {s : State} {c : Code}
    (h : firstFailure s.din (solveResidual Config.params s.din) = some c) : exec .solve s = .next (failSolve c s) := by
  rw [exec_solve_eq, conclude_of_failure h]

theorem exec_refine_of_failure {s : State} {c : Code}
    (h : firstFailure s.din (refineResidual Config.params s.din s.fine) = some c) :
    exec .refine s = .next (failSolve c s) := by
  rw [exec_refine_eq, conclude_of_failure h]

/-- A check that fails whatever the residuals are ends both commands alike. -/
theorem exec_of_failure {i : Instr} (hi : i = .solve ∨ i = .refine) {s : State} {c : Code}
    (h : ∀ resid, firstFailure s.din resid = some c) : exec i s = .next (failSolve c s) := by
  rcases hi with rfl | rfl
  · exact exec_solve_of_failure (h _)
  · exact exec_refine_of_failure (h _)

/-- Settles O51: the elevation is checked before the position map, and neither check looks at a residual. -/
theorem solverPrechecksFail : Obligations.SolverPrechecksFail := by
  refine fun i s hi => ⟨fun hbad => ?zenith, fun hlo hhi hnone => ?empty⟩
  case zenith => exact exec_of_failure hi fun _ => firstFailure_of_elevation (elevationBad_iff.2 hbad)
  case empty =>
    have hel := SolverBounds.elevationBad_eq_false.2 ⟨hlo, hhi⟩
    exact exec_of_failure hi fun _ => firstFailure_of_empty hel (validDipoles_eq_nil_of_pvalid hnone)

/-- Settles O52: one valid dipole beyond the limit is enough for the third check to fail. -/
theorem strictSolveAborts : Obligations.StrictSolveAborts := by
  intro s i hlo hhi hstrict hvalid
  have hel := SolverBounds.elevationBad_eq_false.2 ⟨hlo, hhi⟩
  exact ⟨fun hover => exec_solve_of_failure (firstFailure_of_over hel hstrict hvalid hover),
    fun hover => exec_refine_of_failure (firstFailure_of_over hel hstrict hvalid hover)⟩

/-! ### The commit (R183 to R185, R175) -/

/-- The unit has a valid dipole, or its list is empty. -/
theorem unitDipoles_eq_nil {d : SolverIn} {u : Unit16} :
    unitDipoles d u = [] ↔ ¬ ∃ i, isValid d i = true ∧ unitOf i = u := by
  simp [List.eq_nil_iff_forall_not_mem, and_comm]

/-- MAXERR holds the greatest residual of the valid dipoles (R184). -/
def IsGreatestResidual (d : SolverIn) (resid : Dipole → Int) (w : Word) : Prop :=
  ∃ m : Nat, w = BitVec.ofNat 32 m ∧ (∀ i, isValid d i = true → (resid i).natAbs ≤ m) ∧
    ∃ i, isValid d i = true ∧ (resid i).natAbs = m

section CommittedOut

variable {d : SolverIn} {old : SolverOut} {coarse : Unit16 → Int} {resid : Dipole → Int} {disabled : Nat}

theorem committedOut_coarse (u : Unit16) : (committedOut d old coarse resid disabled).coarse[u] =
    if ∃ i, isValid d i = true ∧ unitOf i = u then to32 (coarse u) else old.coarse[u] := by
  simp only [committedOut, Laws.tabulate_getElem_fin, Fin.ofNat_eq_cast, Fin.cast_val_eq_self,
    List.isEmpty_iff, unitDipoles_eq_nil, ite_not]

theorem committedOut_err (i : Dipole) : (committedOut d old coarse resid disabled).err[i] =
    if isValid d i = true then to32 (resid i) else 0 := by
  rw [committedOut, Laws.dipoleTable_getElem_fin]

/-- Nine bits hold a number of dipoles. -/
theorem committedOut_disabled (h : disabled ≤ 256) :
    (committedOut d old coarse resid disabled).disabled.toNat = disabled := by
  rw [committedOut, BitVec.toNat_ofNat]
  omega

theorem committedOut_maxerr {i : Dipole} (hvalid : isValid d i = true) :
    IsGreatestResidual d resid (committedOut d old coarse resid disabled).maxerr := by
  have hmem : validDipoles d ≠ [] := List.ne_nil_of_mem ((Laws.mem_validDipoles d i).2 hvalid)
  obtain ⟨j, hj, hmax⟩ := Laws.maxAbs_mem resid _ hmem
  exact ⟨_, rfl, fun k hk => Laws.le_maxAbs resid _ k ((Laws.mem_validDipoles d k).2 hk), j,
    (Laws.mem_validDipoles d j).1 hj, hmax⟩

/-- The three words of SUMSQ hold the low 96 bits of the sum of squares (R184, 10_state.md R41). -/
theorem committedOut_sumsq : sumsqValue (committedOut d old coarse resid disabled) =
    (∑ i with isValid d i = true, (resid i).natAbs ^ 2) % 2 ^ 96 := by
  rw [← Laws.validDipoles_toFinset, ← Laws.sumSquares_eq _ _ (Laws.validDipoles_nodup d)]
  simp only [sumsqValue, committedOut, BitVec.toNat_ofNat]
  omega

end CommittedOut

/-- A loop over the valid dipoles counts each once. -/
theorem length_filter_validDipoles {d : SolverIn} {q : Dipole → Bool} {r : Dipole → Prop} [DecidablePred r]
    (h : ∀ i, q i = true ↔ r i) :
    ((validDipoles d).filter q).length = ((Finset.univ.filter (fun i => isValid d i = true)).filter r).card := by
  rw [← List.toFinset_card_of_nodup ((Laws.validDipoles_nodup d).filter q), List.toFinset_filter,
    Laws.validDipoles_toFinset]
  simp only [h]

theorem solveDisabled_eq_card (p : Params) (d : SolverIn) : solveDisabled p d =
    ((Finset.univ.filter (fun i => isValid d i = true)).filter (fun i => strictBit d = false ∧ clipBit d = true ∧
      d.errlim.toNat < (solveResidual p d i).natAbs)).card :=
  length_filter_validDipoles fun _ => isMarked_iff

theorem refineDisabled_eq_card (d : SolverIn) (fine : Vector Word 256) : refineDisabled d fine =
    ((Finset.univ.filter (fun i => isValid d i = true)).filter (fun i => (fine[i]).toInt = 16)).card :=
  length_filter_validDipoles fun _ => beq_iff_eq

theorem solveDisabled_le (p : Params) (d : SolverIn) : solveDisabled p d ≤ 256 :=
  SolverBounds.length_filter_validDipoles_le d _

theorem refineDisabled_le (d : SolverIn) (fine : Vector Word 256) : refineDisabled d fine ≤ 256 :=
  SolverBounds.length_filter_validDipoles_le d _

/-- FINE after a committed SOLVE: the sentinel where marked, else the fine delay of a valid dipole (R183, R175). -/
theorem solvedFine_getElem (p : Params) (d : SolverIn) (old : Vector Word 256) (i : Dipole) :
    (solvedFine p d old)[i] = if isValid d i = true ∧ isMarked p d i = true then 16
      else if isValid d i = true then to32 (solveFine p d i) else old[i] := by
  rw [solvedFine, Laws.dipoleTable_getElem_fin, committedFine]
  cases isValid d i
  · simp
  · cases isMarked p d i <;> simp [sentinel, to32]

/-- Settles O53: the checks pass, and the commit is that of the values that SOLVE computed. -/
theorem solveCommitsItsTable : Obligations.SolveCommitsItsTable := by
  rintro s r v marked hlo hhi rfl ⟨j, hj⟩ hr hlimit rfl
  obtain rfl : r = solveResidual Config.params s.din := funext hr
  have hcount := solveDisabled_eq_card Config.params s.din
  have hel := SolverBounds.elevationBad_eq_false.2 ⟨hlo, hhi⟩
  rw [← hcount]
  simp only [Finset.mem_filter, Finset.mem_univ, true_and, ← isMarked_iff] at hj hlimit ⊢
  exact ⟨_, (exec_solve_eq s).trans (congrArg _ (conclude_of_pass (firstFailure_eq_none hel hj hlimit))),
    solvedFine_getElem _ _ _, committedOut_coarse, committedOut_err,
    committedOut_disabled (solveDisabled_le _ _), committedOut_maxerr hj,
    committedOut_sumsq, rfl⟩

/-- Settles O54: the checks pass, and the commit is that of the values that REFINE computed, with FINE as it was. -/
theorem refineCommitsWithoutTouchingFine : Obligations.RefineCommitsWithoutTouchingFine := by
  rintro s r v hlo hhi rfl ⟨j, hj⟩ hr hlimit
  obtain rfl : r = refineResidual Config.params s.din s.fine := funext hr
  have hcount := refineDisabled_eq_card s.din s.fine
  have hel := SolverBounds.elevationBad_eq_false.2 ⟨hlo, hhi⟩
  rw [← hcount]
  simp only [Finset.mem_filter, Finset.mem_univ, true_and] at hj hlimit ⊢
  exact ⟨_, (exec_refine_eq s).trans (congrArg _ (conclude_of_pass (firstFailure_eq_none hel hj hlimit))),
    committedOut_coarse, committedOut_err,
    committedOut_disabled (refineDisabled_le _ _), committedOut_maxerr hj,
    committedOut_sumsq, rfl⟩

/-! ### Purity (R191) -/

/-- The same results in the output registers, COARSE as far as its units have a valid dipole. -/
def SameResults (d : SolverIn) (o o' : SolverOut) : Prop :=
  (∀ i : Dipole, isValid d i = true → o.coarse[unitOf i] = o'.coarse[unitOf i]) ∧
    o.err = o'.err ∧ o.disabled = o'.disabled ∧ o.maxerr = o'.maxerr ∧ sumsqValue o = sumsqValue o'

/-- A commit takes from the old outputs only COARSE of the units without a valid dipole (R175). -/
theorem committedOut_sameResults (d : SolverIn) (old old' : SolverOut) (coarse : Unit16 → Int) (resid : Dipole → Int)
    (disabled : Nat) :
    SameResults d (committedOut d old coarse resid disabled) (committedOut d old' coarse resid disabled) := by
  refine ⟨fun i hvalid => ?_, rfl, rfl, rfl, rfl⟩
  have hunit : ∃ j, isValid d j = true ∧ unitOf j = unitOf i := ⟨i, hvalid, rfl⟩
  rw [committedOut_coarse, committedOut_coarse, if_pos hunit, if_pos hunit]

/-- A valid dipole's FINE after a SOLVE does not depend on what FINE was (R175). -/
theorem solvedFine_eq_of_valid (p : Params) {d : SolverIn} {i : Dipole} (hvalid : isValid d i = true)
    (old old' : Vector Word 256) : (solvedFine p d old)[i] = (solvedFine p d old')[i] := by
  simp only [solvedFine_getElem, hvalid, if_true]

theorem conclude_din (s : State) (fine : Vector Word 256) (coarse : Unit16 → Int) (resid : Dipole → Int)
    (disabled : Nat) : (conclude s fine coarse resid disabled).din = s.din := by
  cases h : firstFailure s.din resid with
  | some c => rw [conclude_of_failure h, Laws.failSolve_din]
  | none => rw [conclude_of_pass h, Laws.respond_din, Laws.commit_din]

/-- A command that hands FINE on as it was leaves it, whatever its outcome (R189). -/
theorem conclude_fine_self (s : State) (coarse : Unit16 → Int) (resid : Dipole → Int) (disabled : Nat) :
    (conclude s s.fine coarse resid disabled).fine = s.fine := by
  cases h : firstFailure s.din resid with
  | some c => rw [conclude_of_failure h, Laws.failSolve_fine]
  | none => rw [conclude_of_pass h, Laws.respond_fine, Laws.commit_fine]

/-- Two states with the same inputs conclude alike from the same values: the check that fails, or the commit. -/
theorem conclude_sameResults {s s' : State} (hdin : s.din = s'.din) (fine fine' : Vector Word 256)
    (coarse : Unit16 → Int) (resid : Dipole → Int) (disabled : Nat) : ∃ (c : Code) (v : Word),
    (conclude s fine coarse resid disabled).responses = s.responses ++ [responseWord c v] ∧
    (conclude s' fine' coarse resid disabled).responses = s'.responses ++ [responseWord c v] ∧
    (conclude s fine coarse resid disabled).status.resValid =
      (conclude s' fine' coarse resid disabled).status.resValid ∧
    ((conclude s fine coarse resid disabled).status.resValid = true →
      (conclude s fine coarse resid disabled).fine = fine ∧
      (conclude s' fine' coarse resid disabled).fine = fine' ∧
      SameResults s.din (conclude s fine coarse resid disabled).dout
        (conclude s' fine' coarse resid disabled).dout) := by
  cases h : firstFailure s.din resid with
  | some c =>
    rw [conclude_of_failure h, conclude_of_failure (hdin ▸ h)]
    exact ⟨c, 0, rfl, rfl, rfl, fun hvalid => absurd hvalid (by simp)⟩
  | none =>
    rw [conclude_of_pass h, conclude_of_pass (hdin ▸ h), ← hdin]
    exact ⟨.ok, _, rfl, rfl, rfl, fun _ => ⟨rfl, rfl, committedOut_sameResults _ _ _ _ _ _⟩⟩

/-- Settles O57: the values that a command concludes with are functions of the inputs, for REFINE of FINE too. -/
theorem solveDependsOnInputsOnly : Obligations.SolveDependsOnInputsOnly := by
  refine ⟨fun s s' hdin => ?solve, fun s s' hdin hfine => ?refine⟩
  case solve =>
    obtain ⟨c, v, hresp, hresp', hvalid, hresults⟩ := conclude_sameResults hdin
      (solvedFine Config.params s.din s.fine) (solvedFine Config.params s.din s'.fine)
      (solveCoarse Config.params s.din) (solveResidual Config.params s.din) (solveDisabled Config.params s.din)
    refine ⟨_, _, c, v, exec_solve_eq s, hdin ▸ exec_solve_eq s', hresp, hresp', hvalid, conclude_din _ _ _ _ _,
      conclude_din _ _ _ _ _, fun hcommit => ?_⟩
    obtain ⟨hf, hf', hout⟩ := hresults hcommit
    exact ⟨fun i hi => by rw [hf, hf', solvedFine_eq_of_valid _ hi s.fine s'.fine], hout⟩
  case refine =>
    obtain ⟨c, v, hresp, hresp', hvalid, hresults⟩ := conclude_sameResults hdin s.fine s'.fine
      (refineCoarse Config.params s.din s.fine) (refineResidual Config.params s.din s.fine)
      (refineDisabled s.din s.fine)
    refine ⟨_, _, c, v, exec_refine_eq s, ?_, hresp, hresp', hvalid, conclude_din _ _ _ _ _,
      conclude_din _ _ _ _ _, conclude_fine_self _ _ _ _, conclude_fine_self _ _ _ _,
      fun hcommit => (hresults hcommit).2.2⟩
    rw [exec_refine_eq, ← hdin, ← hfine]

end Sys2Proof.Proofs.SolverCommands
end

section
/-! PROOF. The obligations of 60_exceptions.md: no command stops the machine (R223, R233), and a command either is
refused with a fault, which is then all that happens, or leaves FAULT as it is (R220, R223, R225). -/

namespace Sys2Proof.Proofs.Exceptions

open Sys2Proof Sys2Proof.Machine

/-! ### Every run goes on (R223, R233) -/

/-- One step always has a next state: idle, the answer to a command word, or a reset. -/
theorem step_next (s : State) : ∃ t, step s = .next t := by
  rcases Laws.step_cases s with ⟨-, hidle⟩ | ⟨_, _, _, -, -, hillegal⟩ | ⟨_, rest, i, -, -, hexec⟩ |
    ⟨_, _, -, -, hreset⟩
  · exact ⟨_, hidle⟩
  · exact ⟨_, hillegal⟩
  · obtain ⟨t, hnext, -⟩ := Encoding.exec_answeredOnce i { s with pending := rest }
    exact ⟨t, hexec.trans hnext⟩
  · exact ⟨_, hreset⟩

/-- Settles O10, by induction on the number of steps: the first has a next state, and the run goes on from there. -/
theorem everyRunGoesOn : Obligations.EveryRunGoesOn := by
  intro n
  induction n with
  | zero => exact fun s => ⟨s, rfl⟩
  | succ n ih =>
    intro s
    obtain ⟨t, hstep⟩ := step_next s
    obtain ⟨u, hrun⟩ := ih t
    exact ⟨u, (Checksum.run_succ_of_step hstep).trans hrun⟩

/-! ### How a command ends (R220) -/

/-- The two ways in which a command other than RESET ends: refused with a fault, which is then its whole effect (R223),
or answered with a code that is no fault, whatever else it does, and FAULT left as it was (R225). -/
inductive Ends (s : State) : State → Prop
  | refused (c : Code) (hcode : c.bits.getLsbD 7 = true) : Ends s (faultOut c s)
  | answered {t : State} (c : Code) (v : Word) (hcode : c.bits.getLsbD 7 = false) (hfault : t.fault = s.fault)
      (hanswer : t.responses = s.responses ++ [responseWord c v]) : Ends s t

/-- An answer with no fault code ends a command when all that came before it left FAULT and the answers. -/
theorem ends_respond {s t : State} {c : Code} {v : Word} (hcode : c.bits.getLsbD 7 = false)
    (hfault : t.fault = s.fault) (hanswers : t.responses = s.responses) : Ends s (respond c v t) :=
  .answered c v hcode hfault (by rw [Laws.respond_responses, hanswers])

theorem ends_respond_ok {s t : State} {v : Word} (hfault : t.fault = s.fault)
    (hanswers : t.responses = s.responses) : Ends s (respond .ok v t) := ends_respond rfl hfault hanswers

theorem ends_respondQuietly_ok (v : Word) (s : State) : Ends s (respondQuietly .ok v s) := .answered .ok v rfl rfl rfl

theorem ends_rdOp (p : Params) (a : RegAddr) (s : State) : Ends s (rdOp p a s) := by
  rcases Laws.rdOp_cases p a s with ⟨_, hfault⟩ | ⟨_, _, hread⟩
  · exact hfault ▸ .refused .fAddr rfl
  · exact hread ▸ ends_respondQuietly_ok _ s

theorem ends_wrOp (a : RegAddr) (d : Word) (s : State) : Ends s (wrOp a d s) := by
  rcases Laws.wrOp_cases a d s with ⟨_, hfault⟩ | ⟨_, _, _, _, hfault⟩ | ⟨_, _, _, _, hwrite⟩
  · exact hfault ▸ .refused .fAddr rfl
  · exact hfault ▸ .refused .fRange rfl
  · exact hwrite ▸ ends_respond_ok (Laws.writeReg_fault _ _ s) (Laws.writeReg_responses _ _ s)

theorem ends_cspushOp (b : Byte) (s : State) : Ends s (cspushOp b s) := by
  rcases Laws.cspushOp_cases b s with ⟨_, hfault⟩ | ⟨_, habsorb⟩
  · exact hfault ▸ .refused .fCsovf rfl
  · exact habsorb ▸ ends_respond_ok rfl rfl

theorem ends_fencOp (p : Params) (s : State) : Ends s (fencOp p s) :=
  ends_respond_ok (by simp) (by simp)

theorem ends_rxdataOp (p : Params) (b : Byte) (s : State) : Ends s (rxdataOp p b s) := by
  rcases Laws.rxdataOp_cases p b s with ⟨_, hfault⟩ | ⟨_, happend⟩
  · exact hfault ▸ .refused .fRxovf rfl
  · exact happend ▸ ends_respond_ok rfl rfl

/-- A delivered frame is answered OK or CORRUPT, neither of them a fault (R220). -/
theorem deliveryCode_no_fault (u : List Byte) : (deliveryCode u).bits.getLsbD 7 = false := by
  unfold deliveryCode
  split <;> rfl

theorem ends_fdecOp (p : Params) (s : State) : Ends s (fdecOp p s) := by
  rcases Laws.fdecOp_cases p s with ⟨_, hdeliver⟩ | ⟨_, _, htimeout⟩ | ⟨_, _, hwait⟩
  · exact hdeliver ▸ ends_respond (deliveryCode_no_fault _) rfl rfl
  · exact htimeout ▸ ends_respond rfl rfl rfl
  · exact hwait ▸ ends_respond rfl rfl rfl

/-- The failure outcomes of SOLVE and REFINE are no faults (R220). -/
theorem firstFailure_no_fault {d : SolverIn} {resid : Dipole → Int} {c : Code}
    (h : SolverCommands.firstFailure d resid = some c) : c.bits.getLsbD 7 = false := by
  unfold SolverCommands.firstFailure at h
  split_ifs at h <;> cases h <;> rfl

theorem ends_conclude (s : State) (fine : Vector Word 256) (coarse : Unit16 → Int) (resid : Dipole → Int)
    (disabled : Nat) : Ends s (SolverCommands.conclude s fine coarse resid disabled) := by
  cases h : SolverCommands.firstFailure s.din resid with
  | some c =>
    rw [SolverCommands.conclude_of_failure h]
    exact .answered c 0 (firstFailure_no_fault h) rfl rfl
  | none =>
    rw [SolverCommands.conclude_of_pass h]
    exact ends_respond_ok rfl rfl

/-- Every command but RESET ends in one of the two ways. -/
theorem exec_ends {i : Instr} (hne : i ≠ .reset) (s : State) : ∃ t, exec i s = .next t ∧ Ends s t := by
  cases i with
  | nop => exact ⟨_, Laws.exec_nop s, ends_respondQuietly_ok _ s⟩
  | rd a => exact ⟨_, Laws.exec_rd a s, ends_rdOp _ a s⟩
  | wr a d => exact ⟨_, Laws.exec_wr a d s, ends_wrOp a d s⟩
  | csclr => exact ⟨_, Laws.exec_csclr s, ends_respond_ok rfl rfl⟩
  | cspush b => exact ⟨_, Laws.exec_cspush b s, ends_cspushOp b s⟩
  | csrd8 => exact ⟨_, Laws.exec_csrd8 s, ends_respond_ok rfl rfl⟩
  | csrd16 => exact ⟨_, Laws.exec_csrd16 s, ends_respond_ok rfl rfl⟩
  | fenc => exact ⟨_, Laws.exec_fenc s, ends_fencOp _ s⟩
  | rxdata b => exact ⟨_, Laws.exec_rxdata b s, ends_rxdataOp _ b s⟩
  | rxidle => exact ⟨_, Laws.exec_rxidle s, ends_respond_ok rfl rfl⟩
  | fdec => exact ⟨_, Laws.exec_fdec s, ends_fdecOp _ s⟩
  | rxflush => exact ⟨_, Laws.exec_rxflush s, ends_respond_ok rfl rfl⟩
  | solve => exact ⟨_, SolverCommands.exec_solve_eq s, ends_conclude s _ _ _ _⟩
  | refine => exact ⟨_, SolverCommands.exec_refine_eq s, ends_conclude s _ _ _ _⟩
  | reset => exact absurd rfl hne

/-- The answer of RESET (R114). -/
theorem resetOp_responses (s : State) : (resetOp s).responses = s.responses ++ [responseWord .ok 0] := by
  rw [resetOp, Laws.respond_responses, Laws.resetBlock_responses]

/-- Settles O11: RESET answers OK, and every other command ends refused, which is the exact fault state, or answered. -/
theorem faultsArePrecise : Obligations.FaultsArePrecise := by
  intro i s
  by_cases hreset : i = .reset
  · subst hreset
    exact ⟨_, .ok, 0, Laws.exec_reset s, resetOp_responses s, by simp [Code.bits], fun _ hne => absurd rfl hne⟩
  · obtain ⟨t, hexec, hends⟩ := exec_ends hreset s
    cases hends with
    | refused c hcode =>
      exact ⟨_, c, 0, hexec, rfl, fun _ => Laws.faultOut_eq c s,
        fun hnot => absurd (hcode.symm.trans hnot) (by simp)⟩
    | answered c v hcode hfault hanswer =>
      exact ⟨t, c, v, hexec, hanswer, fun hyes => absurd (hyes.symm.trans hcode) (by simp), fun _ _ => hfault⟩

end Sys2Proof.Proofs.Exceptions
end

section
/-! PROOF. The obligations of 70_reset_and_hazards.md: the hardware reset input and the idle block (R250, R262, R232),
and an FDEC repeated in the receive loop (R258). -/

namespace Sys2Proof.Proofs.ResetAndHazards

open Sys2Proof Sys2Proof.Machine

/-! ### The reset input and the idle block (R250, R251, R262, R232) -/

/-- An arrival that is no command word is the reset input, between two commands or cutting one short. -/
theorem step_reset {s : State} {a : Arrival} {rest : List Arrival} (hpending : s.pending = a :: rest)
    (ha : ∀ cw, a ≠ .command cw) : step s = .next { State.reset with pending := rest, responses := s.responses } := by
  cases a with
  | command cw => exact absurd rfl (ha cw)
  | resetInput | commandCutByReset cw =>
    simp only [step, takeArrival, hpending, perform, execHardReset, resetBlock]

theorem step_idle {s : State} (hpending : s.pending = []) : step s = .next s := by
  simp only [step, takeArrival, hpending, execIdle]

/-- Settles O8: both reset arrivals are `step_reset`, and nothing arrived is `step_idle`. -/
theorem hardwareResetAndIdle : Obligations.HardwareResetAndIdle :=
  ⟨fun _ _ hinput => step_reset hinput fun _ => Arrival.noConfusion,
    fun _ _ _ hcut => step_reset hcut fun _ => Arrival.noConfusion, fun _ => step_idle⟩

/-! ### FDEC repeated after INCOMPLETE (R258) -/

/-- A buffer that was resynchronised is left as it is (R147). -/
theorem resync_resync (p : Params) (buf : List Byte) : resync p (resync p buf) = resync p buf := by
  rcases Laws.resync_head p buf with hempty | ⟨rest, hstart⟩
  · rw [hempty]
    rfl
  · rw [hstart, Laws.resync_start]

theorem deliveryCode_bits_ne_incomplete (u : List Byte) : (deliveryCode u).bits ≠ 0x01 := by
  unfold deliveryCode
  split <;> decide

/-- Of FDEC's outcomes only the third answers INCOMPLETE: less than a frame, and RX_IDLE not 2 (R150, R152). -/
theorem partial_of_lastCode_incomplete {p : Params} {s : State} (hcode : (fdecOp p s).status.lastCode = 0x01) :
    (scan p (resync p s.rx.buf)).complete = false ∧ s.rx.idle ≠ 2 := by
  rcases Laws.fdecOp_cases p s with ⟨-, hdeliver⟩ | ⟨-, -, htimeout⟩ | ⟨hpart, hidle, -⟩
  · rw [hdeliver, Laws.respond_status_lastCode] at hcode
    exact absurd hcode (deliveryCode_bits_ne_incomplete _)
  · rw [htimeout, Laws.respond_status_lastCode] at hcode
    exact absurd hcode (by decide)
  · exact ⟨hpart, hidle⟩

/-- After INCOMPLETE the buffer is resynchronised, RX_IDLE as it was and RX_VALID clear, so the same FDEC finds the same
and has nothing left to write but its answer. -/
theorem fdecOp_fdecOp_of_partial {p : Params} {s : State} (hpart : (scan p (resync p s.rx.buf)).complete = false)
    (hidle : s.rx.idle ≠ 2) : fdecOp p (fdecOp p s) =
      { fdecOp p s with responses := (fdecOp p s).responses ++ [responseWord .incomplete 0] } := by
  have hwait := FrameCodec.fdecOp_incomplete hpart hidle
  have hbuf : resync p (fdecOp p s).rx.buf = resync p s.rx.buf := by
    rw [hwait]
    exact resync_resync p s.rx.buf
  have hidle' : (fdecOp p s).rx.idle = s.rx.idle := by
    rw [hwait]
    rfl
  rw [FrameCodec.fdecOp_incomplete (hbuf ▸ hpart) (hidle' ▸ hidle), hbuf, hidle', hwait]
  rfl

/-- Settles O41: INCOMPLETE names the outcome of the first FDEC, and the second repeats it. -/
theorem repeatedIncompleteChangesNothing : Obligations.RepeatedIncompleteChangesNothing := by
  intro s t hexec hcode
  obtain rfl : fdecOp Config.params s = t := Host.Outcome.next.inj ((Laws.exec_fdec s).symm.trans hexec)
  obtain ⟨hpart, hidle⟩ := partial_of_lastCode_incomplete hcode
  rw [Laws.exec_fdec, fdecOp_fdecOp_of_partial hpart hidle, FrameCodec.responseWord_incomplete]

end Sys2Proof.Proofs.ResetAndHazards
end
